-- ==== Sys2Proof/Word.lean ====
section
/-! DEFINITION. The two sizes of data the block moves: the 32-bit row word (spec/10_state.md R21,
spec/00_scope.md R10) and the byte of the serial link and of the row-select port (R36, R38). -/

namespace Sys2Proof

/-- A row word: 32 bits, column `c` is bit `c` (R10, R81). -/
abbrev Word := BitVec 32

/-- A byte: a transfer of the serial primitive, a value of the row-select port, an OPID. -/
abbrev Byte := BitVec 8

end Sys2Proof
end

