-- ==== Sys2Proof/Syntax.lean ====
section
/-! DEFINITION. The instructions: one constructor per row of spec/opcode_table.json, with the operands
of the written form (spec/30_encoding.md R98). The block fetches no instruction stream (R80); its rows
are the 30 operations of R93 and the codes and formats of R81 to R92. -/

namespace Sys2Proof

/-- Which velocity register a VEL code goes to (notes/assumptions/10): BDX or BDY. -/
inductive Axis where
  | x
  | y
  deriving DecidableEq, Repr

/-- The formats of the table's rows: operation identifiers (R93), row-select codes (R83), the row word
(R81), the row burst (R82), the generator code (R92), the velocity code (R91). -/
inductive Format where
  | opid
  | rs
  | rw
  | rb
  | gen
  | vel
  deriving DecidableEq, Repr

/-- One constructor per row of the table, in the table's order. -/
inductive Instr where
  -- micro-operations, R93 kind uop
  | blank
  | tx0
  | wait0
  | tx1
  | wait1
  | tx2
  | wait2
  | tx3
  | wait3
  | latchset
  | latchclr
  | selrow
  | settle
  | atick
  -- composites, R93 kind comp, with the operands of R98
  | transmit (b0 b1 b2 b3 : Byte)
  | rstep (f : BitVec 2) (r : BitVec 5)
  | rframe
  | frame
  | run
  | sendbyte (v : Byte)
  -- sub-operations of ATICK, R93 kind sub
  | ball
  | erase
  | bounce
  | move
  | draw
  | noise
  -- steps of agents outside the sequencer, R93 kind env
  | sershift
  | btnedge
  | pwrdown
  | reset
  -- row-select codes, R83 to R87
  | rowselNone
  | rowselRow0
  | rowselRow1
  | rowselRow2
  | rowselRow3
  | rowselRow4
  | rowselRow5
  | rowselRow6
  | rowselRow7
  | rowselRow8
  | rowselRow9
  | rowselRow10
  | rowselRow11
  | rowselRow12
  | rowselRow13
  | rowselRow14
  | rowselRow15
  | rowselRow16
  | rowselRow17
  | rowselRow18
  | rowselRow19
  | rowselRow20
  | rowselRow21
  | rowselRow22
  | rowselRow23
  | rowselRow24
  | rowselReservedHi (h : BitVec 4)
  | rowselReservedBoth (h l : BitVec 4)
  -- row word and row burst, R81, R82
  | rowword (c : BitVec 25)
  | rowburst (a b c d : Byte)
  -- generator codes, R92
  | genBall
  | genNoise
  -- velocity codes, R91
  | velM2 (a : Axis)
  | velM1 (a : Axis)
  | velP1 (a : Axis)
  | velP2 (a : Axis)
  deriving DecidableEq, Repr

/-- A written operation as it is put before the machine: its format and its bytes. -/
structure Cmd where
  fmt   : Format
  bytes : List Byte
  deriving DecidableEq, Repr

end Sys2Proof
end

