-- ==== Sys2Proof/WellFormed.lean ====
section
/-! DEFINITION. Which terms of `Instr` stand for an instruction of the spec: the operand ranges that the
operands' types do not already give (RSTEP's row, R98; the two reserved classes' nibbles, R86). -/

namespace Sys2Proof

/-- The operand ranges of R98 and R86. -/
def Instr.wellFormed : Instr → Bool
  | .blank => true
  | .tx0 => true
  | .wait0 => true
  | .tx1 => true
  | .wait1 => true
  | .tx2 => true
  | .wait2 => true
  | .tx3 => true
  | .wait3 => true
  | .latchset => true
  | .latchclr => true
  | .selrow => true
  | .settle => true
  | .atick => true
  | .transmit _ _ _ _ => true
  | .rstep _ r => decide (r.toNat ≤ 24)
  | .rframe => true
  | .frame => true
  | .run => true
  | .sendbyte _ => true
  | .ball => true
  | .erase => true
  | .bounce => true
  | .move => true
  | .draw => true
  | .noise => true
  | .sershift => true
  | .btnedge => true
  | .pwrdown => true
  | .reset => true
  | .rowselNone => true
  | .rowselRow0 => true
  | .rowselRow1 => true
  | .rowselRow2 => true
  | .rowselRow3 => true
  | .rowselRow4 => true
  | .rowselRow5 => true
  | .rowselRow6 => true
  | .rowselRow7 => true
  | .rowselRow8 => true
  | .rowselRow9 => true
  | .rowselRow10 => true
  | .rowselRow11 => true
  | .rowselRow12 => true
  | .rowselRow13 => true
  | .rowselRow14 => true
  | .rowselRow15 => true
  | .rowselRow16 => true
  | .rowselRow17 => true
  | .rowselRow18 => true
  | .rowselRow19 => true
  | .rowselRow20 => true
  | .rowselRow21 => true
  | .rowselRow22 => true
  | .rowselRow23 => true
  | .rowselRow24 => true
  | .rowselReservedHi h => decide (11 ≤ h.toNat)
  | .rowselReservedBoth h l => h != 0#4 && l != 0#4
  | .rowword _ => true
  | .rowburst _ _ _ _ => true
  | .genBall => true
  | .genNoise => true
  | .velM2 _ => true
  | .velM1 _ => true
  | .velP1 _ => true
  | .velP2 _ => true

end Sys2Proof
end

