-- ==== Sys2Proof/Decode.lean ====
section
/-! DEFINITION. Decoding, total on any bytes and rejecting by name, one decoder per format of the table
(spec/30_encoding.md R81 to R93), and after it the encoder. Operand bytes of TRANSMIT, RSTEP and SENDBYTE
and the axis byte of a VEL code follow the code byte (notes/assumptions/10 and 11: the spec gives the
operands of R98 no bits). -/

namespace Sys2Proof

/-- Why bytes are no instruction of a format. -/
inductive DecodeError where
  /-- No byte is left to read. -/
  | noBytes
  /-- The OPID is not one of R93's 30 (U2). -/
  | unknownOpid
  /-- The bytes end before the operands do. -/
  | missingOperand
  /-- RSTEP's field byte is above 3 (R98). -/
  | fieldOutOfRange
  /-- RSTEP's row byte is above 24 (R98, R66). -/
  | rowOutOfRange
  /-- Bits 31:25 of a row word are not zero (R81). -/
  | notRowWord
  /-- A generator code other than 0 and 1 (R92). -/
  | unknownGenCode
  /-- One of the four 3-bit velocity patterns that R29 calls unreachable. -/
  | unreachableVelocity
  /-- A velocity byte above 7, which is no 3-bit pattern (R91; notes/assumptions/29). -/
  | unknownVelCode
  /-- An axis byte other than 0 and 1 (notes/assumptions/10). -/
  | unknownAxis
  /-- A written operation holds more bytes than its instruction. -/
  | trailingBytes
  deriving DecidableEq, Repr

/-! ## Words and bytes -/

/-- The four bytes of a word, most significant first (R65, R82). -/
def bytesOfWord (w : Word) : List Byte :=
  [w.extractLsb' 24 8, w.extractLsb' 16 8, w.extractLsb' 8 8, w.extractLsb' 0 8]

/-- The word whose bytes, most significant first, are the four given (R82). -/
def wordOfBytes (b0 b1 b2 b3 : Byte) : Word :=
  b0 ++ b1 ++ b2 ++ b3

/-- The instruction a table of codes gives a code. -/
def lookupCode : List (Nat × Instr) → Nat → Option Instr
  | [], _ => none
  | (k, i) :: rest, n => if k = n then some i else lookupCode rest n

/-! ## Operation identifiers, R93 -/

/-- The operations of R93 that have no operand. -/
def opidTable : List (Nat × Instr) :=
  [ (0x00, .blank), (0x01, .tx0), (0x02, .wait0), (0x03, .tx1),
    (0x04, .wait1), (0x05, .tx2), (0x06, .wait2), (0x07, .tx3),
    (0x08, .wait3), (0x09, .latchset), (0x0A, .latchclr), (0x0B, .selrow),
    (0x0C, .settle), (0x0D, .atick), (0x12, .rframe), (0x13, .frame),
    (0x14, .run), (0x18, .ball), (0x19, .erase), (0x1A, .bounce),
    (0x1B, .move), (0x1C, .draw), (0x1D, .noise), (0x20, .sershift),
    (0x21, .btnedge), (0x22, .pwrdown), (0x23, .reset) ]

/-- RSTEP's two operand bytes: field 0..3, row 0..24 (R98). DESIGN CHOICE (notes/assumptions/29; safe): the
field is looked at before the row. -/
def decodeRstep (f r : Byte) (rest : List Byte) : Except DecodeError (Instr × List Byte) :=
  if f.toNat ≤ 3 then
    if r.toNat ≤ 24 then .ok (.rstep (f.setWidth 2) (r.setWidth 5), rest) else .error .rowOutOfRange
  else .error .fieldOutOfRange

/-- An operation from its OPID byte and the bytes after it (R93, R98). -/
def decodeOpid (b : Byte) (rest : List Byte) : Except DecodeError (Instr × List Byte) :=
  if b = 0x10#8 then
    match rest with
    | b0 :: b1 :: b2 :: b3 :: more => .ok (.transmit b0 b1 b2 b3, more)
    | _ => .error .missingOperand
  else if b = 0x11#8 then
    match rest with
    | f :: r :: more => decodeRstep f r more
    | _ => .error .missingOperand
  else if b = 0x15#8 then
    match rest with
    | v :: more => .ok (.sendbyte v, more)
    | _ => .error .missingOperand
  else
    match lookupCode opidTable b.toNat with
    | some i => .ok (i, rest)
    | none => .error .unknownOpid

/-! ## Row-select codes, R83 to R87 -/

/-- The complete code table of R87. -/
def rowselTable : List (Nat × Instr) :=
  [ (0x00, .rowselNone), (0x01, .rowselRow0), (0x02, .rowselRow1), (0x03, .rowselRow2),
    (0x04, .rowselRow3), (0x05, .rowselRow4), (0x06, .rowselRow5), (0x07, .rowselRow6),
    (0x08, .rowselRow7), (0x09, .rowselRow8), (0x0A, .rowselRow9), (0x0B, .rowselRow10),
    (0x0C, .rowselRow11), (0x0D, .rowselRow12), (0x0E, .rowselRow13), (0x0F, .rowselRow14),
    (0x10, .rowselRow15), (0x20, .rowselRow16), (0x30, .rowselRow17), (0x40, .rowselRow18),
    (0x50, .rowselRow19), (0x60, .rowselRow20), (0x70, .rowselRow21), (0x80, .rowselRow22),
    (0x90, .rowselRow23), (0xA0, .rowselRow24) ]

/-- A row-select code; what the table of R87 does not list is one of the two reserved classes of R86. -/
def decodeRowsel (b : Byte) : Instr :=
  match lookupCode rowselTable b.toNat with
  | some i => i
  | none =>
    if b.extractLsb' 0 4 = 0#4 then .rowselReservedHi (b.extractLsb' 4 4)
    else .rowselReservedBoth (b.extractLsb' 4 4) (b.extractLsb' 0 4)

/-! ## Row word and row burst, R81 and R82 -/

/-- A row word: bits 31:25 zero, bits 24:0 the columns (R81). -/
def decodeRowword (w : Word) : Except DecodeError Instr :=
  if w.extractLsb' 25 7 = 0#7 then .ok (.rowword (w.extractLsb' 0 25)) else .error .notRowWord

/-! ## Register codes, R91 and R92 -/

/-- GEN: 0 Ball, 1 Noise (R92). DESIGN CHOICE (notes/assumptions/29; safe): a byte above 1 is no 1-bit code and
the spec has no name for it, so it is an unknown code. -/
def decodeGen (b : Byte) : Except DecodeError Instr :=
  if b = 0x00#8 then .ok .genBall else if b = 0x01#8 then .ok .genNoise else .error .unknownGenCode

/-- The axis byte: 0 for BDX, 1 for BDY (notes/assumptions/10). -/
def axisByte : Axis → Byte
  | .x => 0x00#8
  | .y => 0x01#8

/-- The axis an axis byte names. -/
def decodeAxis (b : Byte) : Option Axis :=
  if b = 0x00#8 then some .x else if b = 0x01#8 then some .y else none

/-- The velocity code of R91 for one axis; the other four 3-bit patterns are unreachable (R29). DESIGN CHOICE
(notes/assumptions/29; safe): a byte above 7 is no 3-bit pattern and the spec has no name for it, so it is an
unknown code, as a generator byte above 1 is. `decode` has read the axis before. -/
def decodeVel (b : Byte) (a : Axis) : Except DecodeError Instr :=
  if b = 0x06#8 then .ok (.velM2 a)
  else if b = 0x07#8 then .ok (.velM1 a)
  else if b = 0x01#8 then .ok (.velP1 a)
  else if b = 0x02#8 then .ok (.velP2 a)
  else if b.toNat < 8 then .error .unreachableVelocity
  else .error .unknownVelCode

/-! ## The decoder -/

/-- One instruction of a format from bytes, with the bytes left over. DESIGN CHOICE (notes/assumptions/29;
safe): where bytes are wrong in more than one way the spec does not say which is reported. That operand bytes
are missing is found before they are looked at, and the axis byte of a velocity code is looked at before the
code: a VEL with an unreachable pattern (R91, R29) and another axis byte is unknownAxis. -/
def decode (fmt : Format) (bytes : List Byte) : Except DecodeError (Instr × List Byte) :=
  match fmt, bytes with
  | .opid, b :: rest => decodeOpid b rest
  | .rs, b :: rest => .ok (decodeRowsel b, rest)
  | .rw, b0 :: b1 :: b2 :: b3 :: rest => (decodeRowword (wordOfBytes b0 b1 b2 b3)).map (fun i => (i, rest))
  | .rb, b0 :: b1 :: b2 :: b3 :: rest => .ok (.rowburst b0 b1 b2 b3, rest)
  | .gen, b :: rest => (decodeGen b).map (fun i => (i, rest))
  | .vel, b :: ab :: rest =>
    match decodeAxis ab with
    | some a => (decodeVel b a).map (fun i => (i, rest))
    | none => .error .unknownAxis
  | _, [] => .error .noBytes
  | _, _ => .error .missingOperand

/-- A written operation: exactly one instruction, nothing after it. DESIGN CHOICE (notes/assumptions/29;
safe): what is wrong in the instruction is reported before bytes left over. -/
def decodeCmd (c : Cmd) : Except DecodeError Instr :=
  match decode c.fmt c.bytes with
  | .ok (i, []) => .ok i
  | .ok (_, _ :: _) => .error .trailingBytes
  | .error e => .error e

/-! ## The encoder -/

/-- The bytes of an instruction, from the spec's own numbers: OPIDs of R93, codes of R87, R91 and R92,
formats of R81, R82 and R86. -/
def encode : Instr → Cmd
  | .blank => { fmt := .opid, bytes := [0x00#8] }
  | .tx0 => { fmt := .opid, bytes := [0x01#8] }
  | .wait0 => { fmt := .opid, bytes := [0x02#8] }
  | .tx1 => { fmt := .opid, bytes := [0x03#8] }
  | .wait1 => { fmt := .opid, bytes := [0x04#8] }
  | .tx2 => { fmt := .opid, bytes := [0x05#8] }
  | .wait2 => { fmt := .opid, bytes := [0x06#8] }
  | .tx3 => { fmt := .opid, bytes := [0x07#8] }
  | .wait3 => { fmt := .opid, bytes := [0x08#8] }
  | .latchset => { fmt := .opid, bytes := [0x09#8] }
  | .latchclr => { fmt := .opid, bytes := [0x0A#8] }
  | .selrow => { fmt := .opid, bytes := [0x0B#8] }
  | .settle => { fmt := .opid, bytes := [0x0C#8] }
  | .atick => { fmt := .opid, bytes := [0x0D#8] }
  | .transmit b0 b1 b2 b3 => { fmt := .opid, bytes := [0x10#8, b0, b1, b2, b3] }
  | .rstep f r => { fmt := .opid, bytes := [0x11#8, f.setWidth 8, r.setWidth 8] }
  | .rframe => { fmt := .opid, bytes := [0x12#8] }
  | .frame => { fmt := .opid, bytes := [0x13#8] }
  | .run => { fmt := .opid, bytes := [0x14#8] }
  | .sendbyte v => { fmt := .opid, bytes := [0x15#8, v] }
  | .ball => { fmt := .opid, bytes := [0x18#8] }
  | .erase => { fmt := .opid, bytes := [0x19#8] }
  | .bounce => { fmt := .opid, bytes := [0x1A#8] }
  | .move => { fmt := .opid, bytes := [0x1B#8] }
  | .draw => { fmt := .opid, bytes := [0x1C#8] }
  | .noise => { fmt := .opid, bytes := [0x1D#8] }
  | .sershift => { fmt := .opid, bytes := [0x20#8] }
  | .btnedge => { fmt := .opid, bytes := [0x21#8] }
  | .pwrdown => { fmt := .opid, bytes := [0x22#8] }
  | .reset => { fmt := .opid, bytes := [0x23#8] }
  | .rowselNone => { fmt := .rs, bytes := [0x00#8] }
  | .rowselRow0 => { fmt := .rs, bytes := [0x01#8] }
  | .rowselRow1 => { fmt := .rs, bytes := [0x02#8] }
  | .rowselRow2 => { fmt := .rs, bytes := [0x03#8] }
  | .rowselRow3 => { fmt := .rs, bytes := [0x04#8] }
  | .rowselRow4 => { fmt := .rs, bytes := [0x05#8] }
  | .rowselRow5 => { fmt := .rs, bytes := [0x06#8] }
  | .rowselRow6 => { fmt := .rs, bytes := [0x07#8] }
  | .rowselRow7 => { fmt := .rs, bytes := [0x08#8] }
  | .rowselRow8 => { fmt := .rs, bytes := [0x09#8] }
  | .rowselRow9 => { fmt := .rs, bytes := [0x0A#8] }
  | .rowselRow10 => { fmt := .rs, bytes := [0x0B#8] }
  | .rowselRow11 => { fmt := .rs, bytes := [0x0C#8] }
  | .rowselRow12 => { fmt := .rs, bytes := [0x0D#8] }
  | .rowselRow13 => { fmt := .rs, bytes := [0x0E#8] }
  | .rowselRow14 => { fmt := .rs, bytes := [0x0F#8] }
  | .rowselRow15 => { fmt := .rs, bytes := [0x10#8] }
  | .rowselRow16 => { fmt := .rs, bytes := [0x20#8] }
  | .rowselRow17 => { fmt := .rs, bytes := [0x30#8] }
  | .rowselRow18 => { fmt := .rs, bytes := [0x40#8] }
  | .rowselRow19 => { fmt := .rs, bytes := [0x50#8] }
  | .rowselRow20 => { fmt := .rs, bytes := [0x60#8] }
  | .rowselRow21 => { fmt := .rs, bytes := [0x70#8] }
  | .rowselRow22 => { fmt := .rs, bytes := [0x80#8] }
  | .rowselRow23 => { fmt := .rs, bytes := [0x90#8] }
  | .rowselRow24 => { fmt := .rs, bytes := [0xA0#8] }
  | .rowselReservedHi h => { fmt := .rs, bytes := [h ++ 0#4] }
  | .rowselReservedBoth h l => { fmt := .rs, bytes := [h ++ l] }
  | .rowword c => { fmt := .rw, bytes := bytesOfWord (0#7 ++ c) }
  | .rowburst a b c d => { fmt := .rb, bytes := [a, b, c, d] }
  | .genBall => { fmt := .gen, bytes := [0x00#8] }
  | .genNoise => { fmt := .gen, bytes := [0x01#8] }
  | .velM2 a => { fmt := .vel, bytes := [0x06#8, axisByte a] }
  | .velM1 a => { fmt := .vel, bytes := [0x07#8, axisByte a] }
  | .velP1 a => { fmt := .vel, bytes := [0x01#8, axisByte a] }
  | .velP2 a => { fmt := .vel, bytes := [0x02#8, axisByte a] }

/-! ## Words of the opcode table

A table row's bits carry no mark of its format, and OPID 0x01, row-select code 0x01, GEN code 1 and
velocity code 1 are the same byte. Which format an unmarked word is read in is notes/assumptions/23. -/

/-- How many operand bytes follow a code byte of a format. -/
def operandBytes (fmt : Format) (b : Byte) : Nat :=
  match fmt with
  | .opid => if b = 0x10#8 then 4 else if b = 0x11#8 then 2 else if b = 0x15#8 then 1 else 0
  | .vel => 1
  | .rs | .rw | .rb | .gen => 0

/-- A one-byte code with operand bytes of zero. -/
def zeroOperands (fmt : Format) (b : Byte) : Cmd :=
  { fmt := fmt, bytes := b :: List.replicate (operandBytes fmt b) 0x00#8 }

/-- The first `n` bytes of a number, the byte of bits 7..0 first. -/
def lowBytes : Nat → Nat → List Byte
  | 0, _ => []
  | n + 1, w => BitVec.ofNat 8 w :: lowBytes n (w / 256)

/-- Whether a byte is an OPID of R93. -/
def isOpid (b : Byte) : Bool :=
  b == 0x10#8 || b == 0x11#8 || b == 0x15#8 || (lookupCode opidTable b.toNat).isSome

/-- The written operation that a word of the table stands for (notes/assumptions/23). -/
def tableCmd (nbits w : Nat) : Cmd :=
  if nbits = 1 then zeroOperands .gen (BitVec.ofNat 8 w)
  else if nbits = 3 then zeroOperands .vel (BitVec.ofNat 8 w)
  else if nbits ≤ 8 then
    if isOpid (BitVec.ofNat 8 w) then zeroOperands .opid (BitVec.ofNat 8 w)
    else zeroOperands .rs (BitVec.ofNat 8 w)
  else if nbits = 32 then
    if w < 2 ^ 25 then { fmt := .rw, bytes := bytesOfWord (BitVec.ofNat 32 w) }
    else { fmt := .rb, bytes := bytesOfWord (BitVec.ofNat 32 w) }
  else { fmt := .opid, bytes := lowBytes (1 + operandBytes .opid (BitVec.ofNat 8 w)) w }

/-- What the decoder reads from a word of the opcode table. -/
def decodeTableWord (nbits w : Nat) : Option Instr :=
  (decodeCmd (tableCmd nbits w)).toOption

end Sys2Proof
end

