-- ==== Sys2Proof/Config.lean ====
section
/-! DEFINITION. What is fixed for the machine: the constants of spec/00_scope.md R8, the open
parameters of R9 (a record that the state carries and no step changes), and the free values. -/

namespace Sys2Proof.Config

/-! Constants of R8. -/

/-- NROWS: rows of the matrix, and words of each plane. -/
abbrev nRows : Nat := 25
/-- NCOLS: columns, and meaningful bits of a row word. -/
abbrev nCols : Nat := 25
/-- POS_MAX: the greatest ball coordinate; POS_MIN is 0. -/
abbrev posMax : Nat := 21
/-- BALL_BUDGET: Ball calls before the switch to Noise. -/
abbrev ballBudget : Nat := 5000
/-- NOISE_BUDGET: Noise calls before the switch to Ball. -/
abbrev noiseBudget : Nat := 1000
/-- BALL_PACE_DIV: the ball moves on every 10th Ball call. -/
abbrev ballPaceDiv : Nat := 10
/-- PD_ZERO_ROWS: all-zero rows the power-down sequence sends (R9, decided 4 by D18). -/
abbrev pdZeroRows : Nat := 4

/-- A glyph: four 4-bit row patterns; index 0 is the top row, bit `j` is column BX + j (R179). -/
structure Glyph where
  row0 : BitVec 4
  row1 : BitVec 4
  row2 : BitVec 4
  row3 : BitVec 4
  deriving DecidableEq, Repr

/-- How many of the four columns a glyph has a bit in. -/
def Glyph.width (g : Glyph) : Nat :=
  let cols := g.row0 ||| g.row1 ||| g.row2 ||| g.row3
  (cols.getLsbD 0).toNat + (cols.getLsbD 1).toNat + (cols.getLsbD 2).toNat + (cols.getLsbD 3).toNat

/-- The open parameters of R9. No rule reads `settleCount` (R140) or `serialClockDiv` (U20). -/
structure Params where
  ballX0             : BitVec 5
  ballY0             : BitVec 5
  ballDx0            : BitVec 3
  ballDy0            : BitVec 3
  glyphDim           : Glyph
  glyphBright        : Glyph
  pressEdgeThreshold : Nat
  pressCntBits       : Nat
  settleCount        : Nat
  serialClockDiv     : Nat
  deriving DecidableEq, Repr

/-- The velocity codes of R29 and R91: 1, 2, -1, -2 in three bits, two's complement. -/
def velocityCode (v : BitVec 3) : Bool :=
  v == 1#3 || v == 2#3 || v == 7#3 || v == 6#3

/-- The ranges R9 states for the parameters the rules read: start position in 0..21, start velocity
in {-2, -1, 1, 2}, the glyph constraints (b), (c) and (d) of R179 ((a) and (e) hold by type), a positive
even threshold, and a press counter wide enough for it. DESIGN CHOICE (notes/assumptions/6): "wider" in (d)
is read as more columns with a bit in them. -/
def Params.ok (p : Params) : Bool :=
  decide (p.ballX0.toNat ≤ posMax) && decide (p.ballY0.toNat ≤ posMax)
  && velocityCode p.ballDx0 && velocityCode p.ballDy0
  && p.glyphDim.row0 != 0#4 && p.glyphDim.row1 == 0#4 && p.glyphDim.row2 == 0#4 && p.glyphDim.row3 != 0#4
  && p.glyphBright.row0 != 0#4 && p.glyphBright.row1 != 0#4
  && p.glyphBright.row2 != 0#4 && p.glyphBright.row3 != 0#4
  && decide (p.glyphDim.width < p.glyphBright.width)
  && decide (0 < p.pressEdgeThreshold) && decide (p.pressEdgeThreshold % 2 = 0)
  && decide (p.pressEdgeThreshold < 2 ^ p.pressCntBits)

/-- DESIGN CHOICE (notes/assumptions/1 and 6; unsafe for the reset state): the parameter values
`State.reset` uses. Start and glyphs are the spec's example and default values (D8, D9); threshold 6
is the N = 3 of vector V10; 8 bits is R39's default; the last two are read by no rule. -/
def Params.sample : Params where
  ballX0 := 10#5
  ballY0 := 10#5
  ballDx0 := 1#3
  ballDy0 := 1#3
  glyphDim := { row0 := 0x6#4, row1 := 0x0#4, row2 := 0x0#4, row3 := 0x6#4 }
  glyphBright := { row0 := 0x6#4, row1 := 0xF#4, row2 := 0xF#4, row3 := 0x6#4 }
  pressEdgeThreshold := 6
  pressCntBits := 8
  settleCount := 20
  serialClockDiv := 1

/-! Free values: constants with no body, applied to the state's counter `freeCount`. -/

/-- A draw of the random source (R231) once the supplied list is used up (notes/assumptions/4; safe). -/
opaque freeDraw : Nat → Nat
/-- SDR after the operation RESET, unspecified by R46 (notes/assumptions/3; safe). -/
opaque freeSdr : Nat → BitVec 8
/-- SHIFT after the operation RESET, unspecified by R46 (notes/assumptions/3; safe). -/
opaque freeShift : Nat → BitVec 32
/-- COLOUT after the operation RESET, unspecified by R46 (notes/assumptions/3; safe). -/
opaque freeColout : Nat → BitVec 32

end Sys2Proof.Config
end

