-- ==== Sys2Proof/Machine/Memory.lean ====
section
/-! DEFINITION. One bit-plane buffer (spec/20_memory.md R60 to R63): 25 words indexed by row, no byte
addresses and no numeric placement, so a plane is a list of (row, word) pairs in one canonical form: rows
strictly rising, no word equal to what an unlisted row reads as, which is the reset value 0 (R62, R46).
Why not bytes: notes/assumptions/22. -/

namespace Sys2Proof.Machine

/-- The two planes (R60). -/
inductive Plane where
  | dim
  | bright
  deriving DecidableEq, Repr

/-- A plane's contents: the rows whose word is not 0. -/
abbrev Buffer := List (Nat × Word)

/-- The word of a row; an unlisted row reads as the reset value 0 (R62). -/
def bufRead : Buffer → Nat → Word
  | [], _ => 0#32
  | (k, v) :: rest, r => if k = r then v else bufRead rest r

/-- A plane without a row's word. -/
def bufErase : Buffer → Nat → Buffer
  | [], _ => []
  | (k, v) :: rest, r => if k = r then bufErase rest r else (k, v) :: bufErase rest r

/-- A row's word put at its place in the rising order. -/
def bufInsert : Buffer → Nat → Word → Buffer
  | [], r, v => [(r, v)]
  | (k, u) :: rest, r, v => if r < k then (r, v) :: (k, u) :: rest else (k, u) :: bufInsert rest r v

/-- A row's word set (R62); writing 0 takes the row off the list. -/
def bufWrite (b : Buffer) (r : Nat) (v : Word) : Buffer :=
  if v = 0#32 then bufErase b r else bufInsert (bufErase b r) r v

/-- Rows at or above `lo` and in 0..24, strictly rising, no zero word. -/
def bufWfFrom : Nat → Buffer → Bool
  | _, [] => true
  | lo, (k, v) :: rest => decide (lo ≤ k) && decide (k ≤ 24) && v != 0#32 && bufWfFrom (k + 1) rest

/-- The canonical form of a plane. -/
def bufWf (b : Buffer) : Bool := bufWfFrom 0 b

/-- Bits 31:25 of every word are 0 (spec/10_state.md R23). -/
def bufLow25 : Buffer → Bool
  | [] => true
  | (_, v) :: rest => v.extractLsb' 25 7 == 0#7 && bufLow25 rest

end Sys2Proof.Machine
end

