-- ==== Sys2Proof/Machine/State.lean ====
section
/-! DEFINITION. The state of the block (spec/10_state.md R20 to R46), the reasons a step can stop, and
the state after reset. -/

namespace Sys2Proof.Machine

/-- The one fault. -/
inductive Fault where
  /-- HALTED = 1: no agent of the block has a step (R34, U21). Raised by every instruction but RESET, and
  by a step of a halted machine with no RESET put before it. Safe: the machine stands still there. -/
  | halted
  deriving DecidableEq, Repr

/-- The refusals: points the hardware cannot reach and to which the spec gives no meaning (R12, R211). -/
inductive Refusal where
  /-- An instruction without a meaning yet; raised by exec's arms alone. Safe. -/
  | notModelled (mnemonic : String)
  /-- A buffer row outside 0..24 (R66, R211); raised by the reads and writes of a plane and by an RSTEP
  of such a row. Safe. -/
  | indexOutOfRange
  /-- A ROWSEL value outside the 26 of R87 (R86, R211); raised by the reserved row-select codes and by a
  step from a state that holds one. Safe. -/
  | reservedRowCode
  /-- A row code written while ROWSEL is not 0 (R127, R211); raised by SELROW and the row codes. Safe. -/
  | selectWithoutBlank
  /-- A register holding a value R95 or U4 lists as unreachable (R211); raised by a step from such a state,
  by an instruction that reads such a register, and for a written OPID or velocity code that R93 and R29 do
  not have. Safe. -/
  | illFormedState
  /-- A micro-operation or composite where SEQ does not stand at its entry: its precondition on SEQ is
  false (R110 to R155; notes/assumptions/15). Safe. -/
  | outOfSequence
  /-- A byte sent, or a latch pulse begun, while SER_BUSY = 1: the precondition of R110, R112, R115 is
  false (notes/assumptions/15). Safe. -/
  | serialBusy
  /-- LATCHCLR while LATCH = 0: the precondition of R113 is false (notes/assumptions/15). Safe. -/
  | latchNotSet
  /-- SERSHIFT while SER_BUSY = 0, or of a primitive that completes no byte any more: the serial primitive has
  no such step (R226, R227). BTNEDGE while the power-down handler waits: an edge cannot occur there (R219). Both
  by notes/assumptions/15. Safe. -/
  | notEnabled
  /-- A written operation that no format decodes (notes/assumptions/7). Safe. -/
  | undecodable
  deriving DecidableEq, Repr

/-- The events of the output trace (R97). -/
inductive Event where
  /-- ROWSEL written. -/
  | sel (v : Byte)
  /-- SDR written: one byte sent. -/
  | byte (v : Byte)
  /-- LATCH set or cleared. -/
  | latch (b : Bool)
  /-- One call of the row-delay primitive. -/
  | delay
  /-- The low-power halt. -/
  | halt
  deriving DecidableEq, Repr

/-- The generators (R25, R92). -/
inductive Gen where
  | ball
  | noise
  deriving DecidableEq, Repr

/-- Who waits for a byte that never completes (R227; notes/assumptions/28). -/
inductive Caller where
  /-- The sequencer in a WAITk, or nobody. -/
  | sequencer
  /-- A SENDBYTE or TRANSMIT performed on its own. -/
  | written
  /-- The power-down handler, which has begun and cannot go on. -/
  | handler
  deriving DecidableEq, Repr

/-- The state. The fields down to `colout` are the spec's, by R20; the eight after them are the model's own
(INVENTORY.md, State). -/
structure State where
  /-- DIM[0..24] (R21). -/
  dim       : Buffer
  /-- BRIGHT[0..24] (R22). -/
  bright    : Buffer
  /-- GEN (R25). -/
  gen       : Gen
  /-- FRAME_CTR (R26). -/
  frameCtr  : BitVec 16
  /-- BALL_PACE (R27). -/
  ballPace  : BitVec 4
  /-- BX (R28). -/
  ballX     : BitVec 5
  /-- BY (R28). -/
  ballY     : BitVec 5
  /-- BDX, two's complement (R29). -/
  ballDx    : BitVec 3
  /-- BDY, two's complement (R29). -/
  ballDy    : BitVec 3
  /-- SEQ.UOP (R30). -/
  uop       : BitVec 4
  /-- SEQ.FIELD (R31). -/
  field     : BitVec 2
  /-- SEQ.ROW (R31). -/
  row       : BitVec 5
  /-- SER_BUSY (R33). -/
  serBusy   : Bool
  /-- HALTED (R34). -/
  halted    : Bool
  /-- ROWSEL (R36). -/
  rowsel    : Byte
  /-- LATCH (R37). -/
  latch     : Bool
  /-- SDR (R38). -/
  sdr       : Byte
  /-- PRESS_CNT (R39), a natural number (R35; notes/assumptions/19). -/
  pressCnt  : Nat
  /-- SHIFT (R42). -/
  shift     : Word
  /-- COLOUT (R43). -/
  colout    : Word
  /-- The parameters of R9; no step changes them (notes/assumptions/6). -/
  cfg       : Config.Params
  /-- The supplied draws of the random source, first draw first (R231; notes/assumptions/4). -/
  draws     : List Nat
  /-- How many free values have been taken (notes/assumptions/4). -/
  freeCount : Nat
  /-- Where the button edges fall: each entry is the number of steps of the other agents before that edge
  (R202, R213; notes/assumptions/12). -/
  edges     : List Nat
  /-- How many more bytes the serial primitive completes; `none`: it completes every one, which is the fairness
  of R116 (R227; notes/assumptions/28). -/
  serialLeft : Option Nat
  /-- Who waits when that is none left and a byte is in flight (notes/assumptions/28). -/
  caller    : Caller
  /-- Written operations put before the machine, first first (R98; notes/assumptions/7). -/
  written   : List Cmd
  /-- The output trace, newest event first (R97; notes/assumptions/20). -/
  trace     : List Event
  deriving DecidableEq, Repr

/-- The state after reset: the values of R46. BX, BY, BDX, BDY come from the sample parameters
(notes/assumptions/1), SDR, SHIFT and COLOUT are unspecified and 0 here (notes/assumptions/2), and the
model's own fields are empty: every byte completes, and nobody waits for one (notes/assumptions/28). -/
def State.reset : State where
  dim := []
  bright := []
  gen := .ball
  frameCtr := 0#16
  ballPace := 0#4
  ballX := Config.Params.sample.ballX0
  ballY := Config.Params.sample.ballY0
  ballDx := Config.Params.sample.ballDx0
  ballDy := Config.Params.sample.ballDy0
  uop := 13#4
  field := 0#2
  row := 0#5
  serBusy := false
  halted := false
  rowsel := 0x00#8
  latch := false
  sdr := 0x00#8
  pressCnt := 0
  shift := 0#32
  colout := 0#32
  cfg := Config.Params.sample
  draws := []
  freeCount := 0
  edges := []
  serialLeft := none
  caller := .sequencer
  written := []
  trace := []

end Sys2Proof.Machine
end

