-- ==== Sys2Proof/Machine/Operands.lean ====
section
/-! DEFINITION. Every operand form and code of the spec as a function of values: plane choice and byte
decomposition, row-select code and its decoding, masks, velocity, clamp, budgets, the advance of the
renderer's counters. A function of a number is total on all numbers, and outside the range the spec defines
it for its value means nothing and no operation asks for it (DESIGN CHOICE, notes/assumptions/33). -/

namespace Sys2Proof.Machine

/-! ## Renderer operands -/

/-- PlaneOf: field 0 reads Dim, fields 1 to 3 Bright (R90, R136). -/
def planeOf (f : BitVec 2) : Plane :=
  if f = 0#2 then .dim else .bright

/-- Byte_k(w) = w[31-8k : 24-8k], k = 0..3 (R82, R137). -/
def byteOf (k : Nat) (w : Word) : Byte :=
  w.extractLsb' (24 - 8 * k) 8

/-- RowCode(r): r + 1 in the low nibble for r ≤ 14, r - 14 in the high nibble above (R84). -/
def rowCode (r : Nat) : Byte :=
  if r ≤ 14 then BitVec.ofNat 8 (r + 1) else BitVec.ofNat 8 (r - 14) <<< 4

/-- What the row drivers read from a ROWSEL value. -/
inductive RowSel where
  /-- All rows off. -/
  | none
  /-- One row is powered. -/
  | row (r : Nat)
  /-- One of the 230 codes the block never writes (R86). -/
  | reserved
  deriving DecidableEq, Repr

/-- RowOf (R83, R85, R86): HI = v[7:4], LO = v[3:0]. -/
def rowOf (v : Byte) : RowSel :=
  let hi := (v.extractLsb' 4 4).toNat
  let lo := (v.extractLsb' 0 4).toNat
  if hi = 0 then (if lo = 0 then .none else .row (lo - 1))
  else if lo = 0 then (if hi ≤ 10 then .row (hi + 14) else .reserved)
  else .reserved

/-- The advance of (UOP, FIELD, ROW) at the end of SETTLE (R141). -/
def advance (f : BitVec 2) (r : BitVec 5) : BitVec 4 × BitVec 2 × BitVec 5 :=
  if r.toNat < 24 then (0#4, f, r + 1#5)
  else if f.toNat < 3 then (0#4, f + 1#2, 0#5)
  else (13#4, 0#2, 0#5)

/-! ## Ball and noise operands -/

/-- EraseMask(x): the four bits x..x+3 (R88). -/
def eraseMask (x : Nat) : Word := 0xF#32 <<< x

/-- Place(g, x): a glyph row pattern at column x (R88). -/
def placeGlyph (g : BitVec 4) (x : Nat) : Word := g.setWidth 32 <<< x

/-- BitMask(c) (R89). -/
def bitMask (c : Nat) : Word := 1#32 <<< c

/-- A glyph's row pattern by index 0..3 (R179). -/
def glyphRow (g : Config.Glyph) : Nat → BitVec 4
  | 0 => g.row0
  | 1 => g.row1
  | 2 => g.row2
  | _ => g.row3

/-- A coordinate in 0..21 (R28, R177). -/
def posOk (p : BitVec 5) : Bool := decide (p.toNat ≤ Config.posMax)

/-- The member of {1, 2} that a drawn natural stands for: itself for 1 and 2, and by parity beyond
(R231; notes/assumptions/5). -/
def speedOf (n : Nat) : Int := if n % 2 = 1 then 1 else 2

/-- sgn(v), for v ≠ 0 (R11). -/
def sgn (v : Int) : Int := if v < 0 then -1 else 1

/-- -sgn(v) * m, the reversed velocity with a new magnitude (R173). -/
def reverseVel (v : BitVec 3) (m : Int) : BitVec 3 :=
  BitVec.ofInt 3 (-(sgn v.toInt) * m)

/-- clamp(v, lo, hi) (R11). -/
def clampInt (v lo hi : Int) : Int := if v < lo then lo else if hi < v then hi else v

/-- One axis of MOVE: the sum as an integer, then clamped to 0..21 (R176, D24). -/
def movePos (p : BitVec 5) (v : BitVec 3) : BitVec 5 :=
  BitVec.ofNat 5 (clampInt (p.toNat + v.toInt) 0 21).toNat

/-- Whether a coordinate stands at a boundary, 0 or 21 (R173). -/
def atBoundary (p : BitVec 5) : Bool := p == 0#5 || p == 21#5

/-! ## Engine operands -/

/-- Budget(g) (R157). -/
def budget : Gen → Nat
  | .ball => Config.ballBudget
  | .noise => Config.noiseBudget

/-- NextGen(g) (R92). -/
def nextGen : Gen → Gen
  | .ball => .noise
  | .noise => .ball

/-- The code of a generator in GEN (R92). -/
def genCode : Gen → BitVec 1
  | .ball => 0#1
  | .noise => 1#1

/-- Whether a UOP code is a WAITk: 2, 4, 6 or 8 (R94). -/
def isWaitUop (u : BitVec 4) : Bool := u == 2#4 || u == 4#4 || u == 6#4 || u == 8#4

/-- Fields of a frame in which a cell with bits d and b is lit (R24). -/
def litFields (d b : Bool) : Nat := d.toNat + 3 * b.toNat

end Sys2Proof.Machine
end

