-- ==== Sys2Proof/Machine/Flags.lean ====
section
/-! DEFINITION. The block's two flags, SER_BUSY and HALTED (spec/10_state.md R33, R34); no arithmetic flag
exists. How each is set and cleared, and the guards that read them. -/

namespace Sys2Proof.Machine

/-- The outcome of one instruction or one step. -/
abbrev Result := Host.Outcome State Fault Refusal

/-- SER_BUSY <- 1 (R33). -/
def State.raiseBusy (s : State) : State := { s with serBusy := true }

/-- SER_BUSY <- 0 (R33); the ready flag shows. -/
def State.clearBusy (s : State) : State := { s with serBusy := false }

/-- HALTED <- 1 (R34). -/
def State.raiseHalted (s : State) : State := { s with halted := true }

/-- The serial primitive completes no byte any more (R227). -/
def State.frozen (s : State) : Bool := s.serialLeft == some 0

/-- The serial primitive completes at least `n` more bytes; always so under the fairness of R116. -/
def State.completes (n : Nat) (s : State) : Bool :=
  match s.serialLeft with
  | none => true
  | some k => decide (n ≤ k)

/-- The thread of control goes on only while no byte holds it (R111, R115). -/
def State.ifIdle (f : State → State) (s : State) : State := if s.serBusy then s else f s

/-- A byte holds a thread of control that is not the sequencer's, and it is noted whose. -/
def State.holdAs (c : Caller) (s : State) : State := if s.serBusy then { s with caller := c } else s

/-- The precondition HALTED = 0 of every operation; a halted block has no step (R34, U21). -/
def running (k : State → Result) (s : State) : Result :=
  if s.halted then .fault .halted else k s

/-- A precondition that only a point the hardware cannot reach makes false; refused by name (R12, R211). -/
def require (b : Bool) (r : Refusal) (k : State → Result) (s : State) : Result :=
  if b then k s else .refused r

/-- The precondition SER_BUSY = 0 (R110, R112, R115). -/
def whenIdle (k : State → Result) (s : State) : Result :=
  require (!s.serBusy) .serialBusy k s

end Sys2Proof.Machine
end

