-- ==== Sys2Proof/Machine/Ops.lean ====
section
/-! DEFINITION. The named operations over the state: sequencing of results, the random source, buffer
access, the output locations, the sequencer position, the button edge with the power-down it may take
(the block's only exception, spec/60_exceptions.md), and the reset values. -/

namespace Sys2Proof.Machine

/-! ## Sequencing -/

/-- First `x`, then, if it gives a next state, `k` there. -/
def andThen (x : Result) (k : State → Result) : Result :=
  match x with
  | .next s => k s
  | .fault f => .fault f
  | .refused r => .refused r

/-- The operations of a list, one after another; how a composite is made of its parts (R98). -/
def runAll : List (State → Result) → State → Result
  | [], s => .next s
  | f :: fs, s => andThen (f s) (runAll fs)

/-- The operations of a list, one after another, as far as the bytes they send complete: a byte that holds the
thread leaves the rest undone (R111, R227). -/
def runHeld : List (State → Result) → State → Result
  | [], s => .next s
  | f :: fs, s => if s.serBusy then .next s else andThen (f s) (runHeld fs)

/-- An operation that always gives a next state. -/
def always (f : State → State) (s : State) : Result := .next (f s)

/-! ## The trace and the random source -/

/-- `emit E` (R12, R97). -/
def State.emit (e : Event) (s : State) : State := { s with trace := e :: s.trace }

/-- The value of the next draw: the first supplied one, or a free value when none is left (R231). -/
def State.drawn (s : State) : Nat :=
  match s.draws with
  | d :: _ => d
  | [] => Config.freeDraw s.freeCount

/-- The state once that draw is taken. -/
def State.afterDraw (s : State) : State :=
  match s.draws with
  | _ :: rest => { s with draws := rest }
  | [] => { s with freeCount := s.freeCount + 1 }

/-! ## Buffers -/

/-- A plane's contents. -/
def State.plane (p : Plane) (s : State) : Buffer :=
  match p with
  | .dim => s.dim
  | .bright => s.bright

/-- A plane's contents replaced. -/
def State.setPlane (p : Plane) (b : Buffer) (s : State) : State :=
  match p with
  | .dim => { s with dim := b }
  | .bright => { s with bright := b }

/-- The word at (plane, row), with no range check: what MemRead gives for a row in 0..24 (R62). -/
def State.word (p : Plane) (r : Nat) (s : State) : Word := bufRead (s.plane p) r

/-- The word at (plane, row) replaced, with no range check: what MemWrite does for a row in 0..24 (R62). -/
def State.setWord (p : Plane) (r : Nat) (v : Word) (s : State) : State :=
  s.setPlane p (bufWrite (s.plane p) r v)

/-- MemRead((p, r), 4), handed to `k` (R62); a row outside 0..24 is refused, never wrapped (R66). -/
def memRead (p : Plane) (r : Nat) (k : Word → State → Result) (s : State) : Result :=
  if r ≤ 24 then k (s.word p r) s else .refused .indexOutOfRange

/-- MemWrite((p, r), 4, v) (R62, R66). -/
def memWrite (p : Plane) (r : Nat) (v : Word) (s : State) : Result :=
  if r ≤ 24 then .next (s.setWord p r v) else .refused .indexOutOfRange

/-- A generator's read-modify-write of one word (R63, R64). -/
def modWord (p : Plane) (r : Nat) (f : Word → Word) (s : State) : Result :=
  memRead p r (fun w => memWrite p r (f w)) s

/-! ## Output locations -/

/-- A write of ROWSEL, seen outside at once (R36, R64, R97). -/
def State.writeRowsel (v : Byte) (s : State) : State :=
  State.emit (.sel v) { s with rowsel := v }

/-- A write of a row code; it needs ROWSEL = 0, or it is the refused SelectWithoutBlank (R127). -/
def selectCode (v : Byte) (s : State) : Result :=
  require (s.rowsel == 0x00#8) .selectWithoutBlank (always (State.writeRowsel v)) s

/-- A byte written to SDR: the transfer starts and SER_BUSY is set (R38, R33, R110, R115). -/
def State.startByte (v : Byte) (s : State) : State :=
  State.emit (.byte v) (State.raiseBusy { s with sdr := v })

/-- The serial primitive completes a byte: SHIFT <- {SHIFT[23:0], SDR}, SER_BUSY <- 0 (R226). One byte fewer
is left of those it completes. -/
def State.shiftByte (s : State) : State :=
  State.clearBusy { s with
    shift := s.shift.extractLsb' 0 24 ++ s.sdr, serialLeft := s.serialLeft.map (fun n => n - 1) }

/-- SERSHIFT if the primitive completes the byte in flight; a frozen one has no such step (R227). -/
def State.tryShift (s : State) : State := if s.frozen then s else s.shiftByte

/-- A byte sent and, unless the primitive is frozen, completed: SENDBYTE with its SERSHIFT (R115, R226). -/
def State.sendByte (v : Byte) (s : State) : State := (s.startByte v).tryShift

/-- Bytes sent one after another, each when the one before it is complete (R249). -/
def State.sendBytes : List Byte → State → State
  | [], s => s
  | b :: bs, s => State.sendBytes bs (s.ifIdle (State.sendByte b))

/-- First half of the latch pulse: LATCH <- 1, COLOUT <- SHIFT (R112). -/
def State.latchSet (s : State) : State :=
  State.emit (.latch true) { s with latch := true, colout := s.shift }

/-- Second half of the latch pulse: LATCH <- 0 (R113). -/
def State.latchClear (s : State) : State :=
  State.emit (.latch false) { s with latch := false }

/-- The latch pulse: set, then clear (R112, R113). -/
def State.latchPulse (s : State) : State := s.latchSet.latchClear

/-- The bytes of a row burst sent in order, then the latch pulse (R82, R114). -/
def State.sendRow (b0 b1 b2 b3 : Byte) (s : State) : State :=
  (s.sendBytes [b0, b1, b2, b3]).ifIdle State.latchPulse

/-! ## The sequencer position -/

/-- SEQ.UOP <- u, FIELD and ROW kept (R30, R32). -/
def State.setUop (u : BitVec 4) (s : State) : State := { s with uop := u }

/-- SEQ <- (u, f, r) (R12, R30). -/
def State.setSeq (u : BitVec 4) (f : BitVec 2) (r : BitVec 5) (s : State) : State :=
  { s with uop := u, field := f, row := r }

/-- The counters advance and UOP follows (R141). -/
def State.advanceSeq (s : State) : State :=
  s.setSeq (advance s.field s.row).1 (advance s.field s.row).2.1 (advance s.field s.row).2.2

/-- The precondition SEQ.UOP = u (R110 to R140). -/
def atUop (u : BitVec 4) (k : State → Result) (s : State) : Result :=
  require (s.uop == u) .outOfSequence k s

/-- The precondition SEQ = (u, f, r) (R155, R138, R142, R200). -/
def atSeq (u : BitVec 4) (f : BitVec 2) (r : BitVec 5) (k : State → Result) (s : State) : Result :=
  require (s.uop == u && s.field == f && s.row == r) .outOfSequence k s

/-! ## The exception: the button edge and the power-down it takes at the threshold

The handler saves nothing and below the threshold there is nothing to restore: the interrupted agent
goes on where it was (R213, R218, R219). -/

/-- A byte in flight completes first (R215). -/
def State.finishByte (s : State) : State := if s.serBusy then s.tryShift else s

/-- The last act of the power-down: the halt (R215). -/
def State.halt (s : State) : State := State.emit .halt s.raiseHalted

/-- PWRDOWN (R215): the byte in flight, ROWSEL <- 0, four all-zero rows of four bytes and no latch pulse of
their own, one latch pulse, the halt. It is split at its byte sends as R227 asks of a model that does not
assume fairness: at a byte that never completes the handler waits for good, and HALTED stays 0. -/
def State.powerDown (s : State) : State :=
  ((((s.finishByte.ifIdle (State.writeRowsel 0x00#8)).sendBytes
    (List.replicate (4 * Config.pdZeroRows) 0x00#8)).ifIdle State.latchPulse).ifIdle State.halt).holdAs .handler

/-- One edge counted (R213). -/
def State.countEdge (s : State) : State := { s with pressCnt := s.pressCnt + 1 }

/-- One edge taken: counted, and at the threshold the power-down, which never returns (R213, R214). -/
def State.takeEdge (s : State) : State :=
  if s.countEdge.pressCnt = s.cfg.pressEdgeThreshold then s.countEdge.powerDown else s.countEdge

/-! ## Reset -/

/-- The values of R46 and R240, with the start values of the machine's own parameters. SDR, SHIFT and
COLOUT are unspecified there and take free values (notes/assumptions/3). Nobody waits for a byte any more. The
parameters, the inputs, the written operations and the trace are not the block's state and stay
(notes/assumptions/27). -/
def State.resetFrom (s : State) : State :=
  { s with
    dim := [], bright := [], gen := .ball, frameCtr := 0#16, ballPace := 0#4,
    ballX := s.cfg.ballX0, ballY := s.cfg.ballY0, ballDx := s.cfg.ballDx0, ballDy := s.cfg.ballDy0,
    uop := 13#4, field := 0#2, row := 0#5, serBusy := false, halted := false,
    rowsel := 0x00#8, latch := false, pressCnt := 0,
    caller := .sequencer,
    sdr := Config.freeSdr s.freeCount, shift := Config.freeShift s.freeCount,
    colout := Config.freeColout s.freeCount, freeCount := s.freeCount + 1 }

/-! ## Ill-formed states (R95, R211, U2 to U4) -/

/-- Every register the generators read is in its reachable range (R28, R29). -/
def ballOk (s : State) : Bool :=
  posOk s.ballX && posOk s.ballY && Config.velocityCode s.ballDx && Config.velocityCode s.ballDy

/-- The values of R95 and U4, ROWSEL apart, are all reachable ones. A byte in flight outside a WAITk is one
where a caller other than the sequencer waits for it, and PRESS_CNT stands at the threshold while the
power-down handler waits (notes/assumptions/16 and 28). -/
def registersOk (s : State) : Bool :=
  ballOk s && decide (s.ballPace.toNat ≤ 9) && decide (s.frameCtr.toNat < budget s.gen)
  && decide (s.uop.toNat ≤ 13) && decide (s.row.toNat ≤ 24)
  && (s.uop != 13#4 || (s.field == 0#2 && s.row == 0#5))
  && (!s.latch || s.uop == 10#4)
  && (!s.serBusy || isWaitUop s.uop || s.caller != .sequencer)
  && (s.halted || s.caller == .handler || decide (s.pressCnt < s.cfg.pressEdgeThreshold))

/-- By which name a state is refused, if it holds a value no run reaches (R95, R211; notes/assumptions/16).
DESIGN CHOICE (notes/assumptions/30; safe): a state that holds both a reserved ROWSEL code and another such
value is refused as reservedRowCode; the spec orders the two names nowhere. -/
def stateDefect (s : State) : Option Refusal :=
  if rowOf s.rowsel = .reserved then some .reservedRowCode
  else if registersOk s then none
  else some .illFormedState

end Sys2Proof.Machine
end

