-- ==== Sys2Proof/Machine/Environment.lean ====
section
/-! DEFINITION. The steps of the agents outside the sequencer (spec/60_exceptions.md, spec/70_reset_and_hazards.md):
SERSHIFT, BTNEDGE, PWRDOWN, RESET. -/

namespace Sys2Proof.Machine

/-- SERSHIFT (R226): enabled when SER_BUSY = 1 and HALTED = 0; a frozen primitive has none (R227). -/
def execSershift (s : State) : Result :=
  running (fun t => require (t.serBusy && !t.frozen) .notEnabled (always State.shiftByte) t) s

/-- BTNEDGE (R213, R214): enabled whenever HALTED = 0; a count at or above the threshold there is no state
of the block (R95, U4), and no edge is taken while the power-down handler waits (R219, U19). DESIGN CHOICE
(notes/assumptions/31; safe): where both hold, the second names the refusal. -/
def execBtnedge (s : State) : Result :=
  running (fun t => require (t.caller != .handler) .notEnabled
    (require (decide (t.pressCnt < t.cfg.pressEdgeThreshold)) .illFormedState (always State.takeEdge)) t) s

/-- PWRDOWN (R215); one that waits at a byte send waits on (R227). DESIGN CHOICE (notes/assumptions/32): R215 has
it entered only from BTNEDGE at the threshold, and one written on its own has the same effect in every running
state, whatever PRESS_CNT is; PRESS_CNT stays. -/
def execPwrdown (s : State) : Result := running (always State.powerDown) s

/-- RESET (R240): from any state, the halted one too (R34). -/
def execReset (s : State) : Result := .next s.resetFrom

end Sys2Proof.Machine
end

