-- ==== Sys2Proof/Machine/Addresser.lean ====
section
/-! DEFINITION. The Row Addresser (spec/41_row_addresser.md): BLANK and SELROW, and the row-select codes of
spec/30_encoding.md R83 to R87 as writes of the port (notes/assumptions/8). -/

namespace Sys2Proof.Machine

/-! ## Shared forms -/

/-- BLANK (R125): the write is unconditional. -/
def blankStep : State → Result :=
  running (atUop 0#4 (always (fun s => (s.writeRowsel 0x00#8).setUop 1#4)))

/-- SELROW (R126): needs ROW in 0..24 and ROWSEL = 0 (R127). DESIGN CHOICE (notes/assumptions/31; safe):
where several preconditions are false the first of SEQ.UOP, ROW in 0..24 and ROWSEL = 0 names the refusal. -/
def selRowStep : State → Result :=
  running (atUop 11#4 (fun s =>
    require (decide (s.row.toNat ≤ 24)) .illFormedState
      (fun t => andThen (selectCode (rowCode t.row.toNat) t) (always (State.setUop 12#4))) s))

/-- A row code put on the port: ROWSEL must be 0 before it (R127, R246; notes/assumptions/8). -/
def codeStep (v : Byte) : State → Result := running (selectCode v)

/-! ## The meanings -/

/-- BLANK (R125). -/
def execBlank (s : State) : Result := blankStep s
/-- SELROW (R126). -/
def execSelrow (s : State) : Result := selRowStep s
/-- ROWSEL.NONE: the port written with 0, all rows off (R83, R125). -/
def execRowselNone (s : State) : Result := running (always (State.writeRowsel 0x00#8)) s
/-- ROWSEL.ROW0 (R84, R87). -/
def execRowselRow0 (s : State) : Result := codeStep 0x01#8 s
/-- ROWSEL.ROW1 (R84, R87). -/
def execRowselRow1 (s : State) : Result := codeStep 0x02#8 s
/-- ROWSEL.ROW2 (R84, R87). -/
def execRowselRow2 (s : State) : Result := codeStep 0x03#8 s
/-- ROWSEL.ROW3 (R84, R87). -/
def execRowselRow3 (s : State) : Result := codeStep 0x04#8 s
/-- ROWSEL.ROW4 (R84, R87). -/
def execRowselRow4 (s : State) : Result := codeStep 0x05#8 s
/-- ROWSEL.ROW5 (R84, R87). -/
def execRowselRow5 (s : State) : Result := codeStep 0x06#8 s
/-- ROWSEL.ROW6 (R84, R87). -/
def execRowselRow6 (s : State) : Result := codeStep 0x07#8 s
/-- ROWSEL.ROW7 (R84, R87). -/
def execRowselRow7 (s : State) : Result := codeStep 0x08#8 s
/-- ROWSEL.ROW8 (R84, R87). -/
def execRowselRow8 (s : State) : Result := codeStep 0x09#8 s
/-- ROWSEL.ROW9 (R84, R87). -/
def execRowselRow9 (s : State) : Result := codeStep 0x0A#8 s
/-- ROWSEL.ROW10 (R84, R87). -/
def execRowselRow10 (s : State) : Result := codeStep 0x0B#8 s
/-- ROWSEL.ROW11 (R84, R87). -/
def execRowselRow11 (s : State) : Result := codeStep 0x0C#8 s
/-- ROWSEL.ROW12 (R84, R87). -/
def execRowselRow12 (s : State) : Result := codeStep 0x0D#8 s
/-- ROWSEL.ROW13 (R84, R87). -/
def execRowselRow13 (s : State) : Result := codeStep 0x0E#8 s
/-- ROWSEL.ROW14 (R84, R87). -/
def execRowselRow14 (s : State) : Result := codeStep 0x0F#8 s
/-- ROWSEL.ROW15 (R84, R87). -/
def execRowselRow15 (s : State) : Result := codeStep 0x10#8 s
/-- ROWSEL.ROW16 (R84, R87). -/
def execRowselRow16 (s : State) : Result := codeStep 0x20#8 s
/-- ROWSEL.ROW17 (R84, R87). -/
def execRowselRow17 (s : State) : Result := codeStep 0x30#8 s
/-- ROWSEL.ROW18 (R84, R87). -/
def execRowselRow18 (s : State) : Result := codeStep 0x40#8 s
/-- ROWSEL.ROW19 (R84, R87). -/
def execRowselRow19 (s : State) : Result := codeStep 0x50#8 s
/-- ROWSEL.ROW20 (R84, R87). -/
def execRowselRow20 (s : State) : Result := codeStep 0x60#8 s
/-- ROWSEL.ROW21 (R84, R87). -/
def execRowselRow21 (s : State) : Result := codeStep 0x70#8 s
/-- ROWSEL.ROW22 (R84, R87). -/
def execRowselRow22 (s : State) : Result := codeStep 0x80#8 s
/-- ROWSEL.ROW23 (R84, R87). -/
def execRowselRow23 (s : State) : Result := codeStep 0x90#8 s
/-- ROWSEL.ROW24 (R84, R87). -/
def execRowselRow24 (s : State) : Result := codeStep 0xA0#8 s
/-- ROWSEL.RESERVED_HI: never written by the block; refused by name (R86, U3). -/
def execRowselReservedHi (_h : BitVec 4) (_s : State) : Result := .refused .reservedRowCode
/-- ROWSEL.RESERVED_BOTH: never written by the block; refused by name (R86, U3). -/
def execRowselReservedBoth (_h _l : BitVec 4) (_s : State) : Result := .refused .reservedRowCode

end Sys2Proof.Machine
end

