-- ==== Sys2Proof/Machine/Ball.lean ====
section
/-! DEFINITION. The Ball generator (spec/44_ball_generator.md): ERASE, BOUNCE, MOVE, DRAW, BALL, and the
velocity codes of spec/30_encoding.md R91 as loads of a velocity register (notes/assumptions/10). -/

namespace Sys2Proof.Machine

/-! ## Shared forms -/

/-- A position outside 0..21 is no state of the block (R95). -/
def whenPosOk (k : State → Result) (s : State) : Result :=
  require (posOk s.ballX && posOk s.ballY) .illFormedState k s

/-- Neither is a velocity outside the four codes (R95). -/
def whenBallOk (k : State → Result) (s : State) : Result :=
  require (ballOk s) .illFormedState k s

/-- Row BY + i of ERASE, both planes (R172). -/
def eraseRow (i : Nat) (s : State) : Result :=
  andThen (modWord .dim (s.ballY.toNat + i) (fun w => w &&& ~~~ eraseMask s.ballX.toNat) s)
    (fun t => modWord .bright (t.ballY.toNat + i) (fun w => w &&& ~~~ eraseMask t.ballX.toNat) t)

/-- ERASE (R172). -/
def eraseBlock : State → Result :=
  whenPosOk (runAll [eraseRow 0, eraseRow 1, eraseRow 2, eraseRow 3])

/-- Row BY + i of DRAW, both planes (R178). -/
def drawRow (i : Nat) (s : State) : Result :=
  andThen (modWord .dim (s.ballY.toNat + i) (fun w => w ||| placeGlyph (glyphRow s.cfg.glyphDim i) s.ballX.toNat) s)
    (fun t => modWord .bright (t.ballY.toNat + i)
      (fun w => w ||| placeGlyph (glyphRow t.cfg.glyphBright i) t.ballX.toNat) t)

/-- DRAW (R178). -/
def drawGlyph : State → Result :=
  whenPosOk (runAll [drawRow 0, drawRow 1, drawRow 2, drawRow 3])

/-- The horizontal half of BOUNCE (R173). -/
def State.bounceX (s : State) : State :=
  if atBoundary s.ballX then { s.afterDraw with ballDx := reverseVel s.ballDx (speedOf s.drawn) } else s

/-- The vertical half of BOUNCE (R173). -/
def State.bounceY (s : State) : State :=
  if atBoundary s.ballY then { s.afterDraw with ballDy := reverseVel s.ballDy (speedOf s.drawn) } else s

/-- BOUNCE (R173): the horizontal test and draw first. -/
def bounceBall : State → Result := whenBallOk (always (fun s => s.bounceX.bounceY))

/-- The new position of MOVE (R176). -/
def State.movedBall (s : State) : State :=
  { s with ballX := movePos s.ballX s.ballDx, ballY := movePos s.ballY s.ballDy }

/-- MOVE (R176). -/
def moveBall : State → Result := whenBallOk (always State.movedBall)

/-- The paced middle of BALL: count, and on the 10th call BOUNCE and MOVE (R171). -/
def paceBall (s : State) : Result :=
  if s.ballPace.toNat + 1 = Config.ballPaceDiv then
    runAll [bounceBall, moveBall] { s with ballPace := 0#4 }
  else .next { s with ballPace := s.ballPace + 1#4 }

/-- BALL (R171): ERASE, the paced steps, DRAW. DESIGN CHOICE (notes/assumptions/31; safe): BALL_PACE is looked at
before the position, and the velocity only on the tenth call. -/
def ballCall (s : State) : Result :=
  require (decide (s.ballPace.toNat ≤ 9)) .illFormedState (runAll [eraseBlock, paceBall, drawGlyph]) s

/-- A velocity code loaded for one axis (R91; notes/assumptions/10). -/
def State.loadVel (a : Axis) (v : BitVec 3) (s : State) : State :=
  match a with
  | .x => { s with ballDx := v }
  | .y => { s with ballDy := v }

/-! ## The meanings -/

/-- BALL (R171). -/
def execBall (s : State) : Result := running ballCall s
/-- ERASE (R172). -/
def execErase (s : State) : Result := running eraseBlock s
/-- BOUNCE (R173). -/
def execBounce (s : State) : Result := running bounceBall s
/-- MOVE (R176). -/
def execMove (s : State) : Result := running moveBall s
/-- DRAW (R178). -/
def execDraw (s : State) : Result := running drawGlyph s
/-- VEL.M2: the code of -2 (R29, R91). -/
def execVelM2 (a : Axis) (s : State) : Result := running (always (State.loadVel a 6#3)) s
/-- VEL.M1: the code of -1 (R29, R91). -/
def execVelM1 (a : Axis) (s : State) : Result := running (always (State.loadVel a 7#3)) s
/-- VEL.P1: the code of +1 (R29, R91). -/
def execVelP1 (a : Axis) (s : State) : Result := running (always (State.loadVel a 1#3)) s
/-- VEL.P2: the code of +2 (R29, R91). -/
def execVelP2 (a : Axis) (s : State) : Result := running (always (State.loadVel a 2#3)) s

end Sys2Proof.Machine
end

