-- ==== Sys2Proof/Machine/Noise.lean ====
section
/-! DEFINITION. The Noise generator (spec/45_noise_generator.md): NOISE. -/

namespace Sys2Proof.Machine

/-- One plane's toggle: a drawn row, a drawn column, each mod 25, then the bit flipped (R191, R89). -/
def toggleBit (p : Plane) (s : State) : Result :=
  modWord p (s.drawn % 25) (fun w => w ^^^ bitMask (s.afterDraw.drawn % 25)) s.afterDraw.afterDraw

/-- One call of the Noise generator: Dim first, then Bright (R191). -/
def noiseCall : State → Result := runAll [toggleBit .dim, toggleBit .bright]

/-- NOISE (R191). -/
def execNoise (s : State) : Result := running noiseCall s

end Sys2Proof.Machine
end

