-- ==== Sys2Proof/Machine/Engine.lean ====
section
/-! DEFINITION. The Animation Engine (spec/43_animation_engine.md): ATICK, and the generator codes of
spec/30_encoding.md R92 as loads of GEN (notes/assumptions/10). -/

namespace Sys2Proof.Machine

/-- Dispatch: the selected generator, once (R156). -/
def runGenerator (s : State) : Result :=
  match s.gen with
  | .ball => ballCall s
  | .noise => noiseCall s

/-- Count the call, and at the budget switch and clear (R157, R158). -/
def State.countCall (s : State) : State :=
  if budget s.gen ≤ s.frameCtr.toNat + 1 then { s with gen := nextGen s.gen, frameCtr := 0#16 }
  else { s with frameCtr := s.frameCtr + 1#16 }

/-- ATICK (R155): from SEQ = (ATICK, 0, 0); a FRAME_CTR at or above the budget is no state of the block (R95).
DESIGN CHOICE (notes/assumptions/31; safe): SEQ is looked at before FRAME_CTR, and that before the generator's
own registers. -/
def atickStep : State → Result :=
  running (atSeq 13#4 0#2 0#5 (fun s =>
    require (decide (s.frameCtr.toNat < budget s.gen)) .illFormedState
      (runAll [runGenerator, always (fun t => t.countCall.setSeq 0#4 0#2 0#5)]) s))

/-- A generator code loaded: a fresh run of that generator, so FRAME_CTR is 0 with it, as at every write
of GEN the spec describes (R26, R157, R240; notes/assumptions/10). -/
def State.loadGen (g : Gen) (s : State) : State := { s with gen := g, frameCtr := 0#16 }

/-- ATICK (R155). -/
def execAtick (s : State) : Result := atickStep s
/-- GEN.BALL (R92). -/
def execGenBall (s : State) : Result := running (always (State.loadGen .ball)) s
/-- GEN.NOISE (R92). -/
def execGenNoise (s : State) : Result := running (always (State.loadGen .noise)) s

end Sys2Proof.Machine
end

