-- ==== Sys2Proof/Machine/Transmitter.lean ====
section
/-! DEFINITION. The Row Transmitter (spec/40_row_transmitter.md): TX0..TX3, WAIT0..WAIT3, LATCHSET,
LATCHCLR, SENDBYTE, TRANSMIT, and the row word and row burst as outputs (spec/30_encoding.md R81, R82). -/

namespace Sys2Proof.Machine

/-! ## Shared forms -/

/-- TXk (R110): byte k of the current row's word to SDR. DESIGN CHOICE (notes/assumptions/31; safe):
where several preconditions are false the first of SEQ.UOP, SER_BUSY and ROW in 0..24 names the refusal. -/
def txStep (k : Nat) : State → Result :=
  running (atUop (BitVec.ofNat 4 (2 * k + 1)) (whenIdle (fun s =>
    memRead (planeOf s.field) s.row.toNat
      (fun w => always (fun t => (t.startByte (byteOf k w)).setUop (BitVec.ofNat 4 (2 * k + 2)))) s)))

/-- WAITk (R111): the hold while SER_BUSY = 1 leaves everything as it is (notes/assumptions/13). -/
def waitStep (k : Nat) : State → Result :=
  running (atUop (BitVec.ofNat 4 (2 * k + 2)) (fun s =>
    if s.serBusy then .next s else .next (s.setUop (BitVec.ofNat 4 (2 * k + 3)))))

/-- LATCHSET (R112). DESIGN CHOICE (notes/assumptions/31; safe): SEQ.UOP is looked at before SER_BUSY. -/
def latchSetStep : State → Result :=
  running (atUop 9#4 (whenIdle (always (fun s => s.latchSet.setUop 10#4))))

/-- LATCHCLR (R113). DESIGN CHOICE (notes/assumptions/31; safe): SEQ.UOP is looked at before LATCH. -/
def latchClrStep : State → Result :=
  running (atUop 10#4 (fun s => require s.latch .latchNotSet (always (fun t => t.latchClear.setUop 11#4)) s))

/-- TRANSMIT b0, b1, b2, b3 (R114); at a byte that never completes its caller waits for good (R227). -/
def transmitStep (b0 b1 b2 b3 : Byte) : State → Result :=
  running (whenIdle (always (fun s => (s.sendRow b0 b1 b2 b3).holdAs .written)))

/-! ## The meanings -/

/-- TX0 (R110). -/
def execTx0 (s : State) : Result := txStep 0 s
/-- TX1 (R110). -/
def execTx1 (s : State) : Result := txStep 1 s
/-- TX2 (R110). -/
def execTx2 (s : State) : Result := txStep 2 s
/-- TX3 (R110). -/
def execTx3 (s : State) : Result := txStep 3 s
/-- WAIT0 (R111). -/
def execWait0 (s : State) : Result := waitStep 0 s
/-- WAIT1 (R111). -/
def execWait1 (s : State) : Result := waitStep 1 s
/-- WAIT2 (R111). -/
def execWait2 (s : State) : Result := waitStep 2 s
/-- WAIT3 (R111). -/
def execWait3 (s : State) : Result := waitStep 3 s
/-- LATCHSET (R112). -/
def execLatchset (s : State) : Result := latchSetStep s
/-- LATCHCLR (R113). -/
def execLatchclr (s : State) : Result := latchClrStep s
/-- SENDBYTE v (R115), with the SERSHIFT that lifts its wait; without one its caller waits for good (R227). -/
def execSendbyte (v : Byte) (s : State) : Result :=
  running (whenIdle (always (fun t => (t.sendByte v).holdAs .written))) s
/-- TRANSMIT b0, b1, b2, b3 (R114). -/
def execTransmit (b0 b1 b2 b3 : Byte) (s : State) : Result := transmitStep b0 b1 b2 b3 s
/-- ROWBURST a, b, c, d: the row burst of R82 on the serial link (notes/assumptions/9). -/
def execRowburst (a b c d : Byte) (s : State) : Result := transmitStep a b c d s
/-- ROWWORD c: the row word of R81 with those columns, sent as it is (R82, R137; notes/assumptions/9). -/
def execRowword (c : BitVec 25) (s : State) : Result :=
  transmitStep (byteOf 0 (0#7 ++ c)) (byteOf 1 (0#7 ++ c)) (byteOf 2 (0#7 ++ c)) (byteOf 3 (0#7 ++ c)) s

end Sys2Proof.Machine
end

