-- ==== Sys2Proof/Machine/Renderer.lean ====
section
/-! DEFINITION. The Frame Renderer and the main loop (spec/42_frame_renderer.md, spec/46_main_loop.md):
SETTLE, RSTEP, RFRAME, FRAME, RUN. RSTEP, RFRAME and FRAME are their expansions of R98 performed as one step,
as far as the bytes complete, with no edge inside (notes/assumptions/17); RUN is begun and left to the
sequencer (notes/assumptions/18). -/

namespace Sys2Proof.Machine

/-! ## Shared forms -/

/-- SETTLE (R140, R141): the delay, then the counters advance. DESIGN CHOICE (notes/assumptions/31; safe):
SEQ.UOP is looked at before ROW. -/
def settleStep : State → Result :=
  running (atUop 12#4 (fun s =>
    require (decide (s.row.toNat ≤ 24)) .illFormedState (always (fun t => (t.emit .delay).advanceSeq)) s))

/-- TXk, the byte's completion if the primitive is not frozen, and WAITk, which holds otherwise (R110, R226,
R111). -/
def byteStep (k : Nat) : State → Result := runAll [txStep k, always State.tryShift, waitStep k]

/-- The thirteen micro-operations of a (field, row) step with the four completions (R138). -/
def stepParts : List (State → Result) :=
  [blankStep, byteStep 0, byteStep 1, byteStep 2, byteStep 3, latchSetStep, latchClrStep, selRowStep, settleStep]

/-- RSTEP f, r from SEQ = (BLANK, f, r) (R138); a row outside 0..24 is refused (R66). DESIGN CHOICE
(notes/assumptions/31; safe): the row is looked at before SEQ, and SEQ before SER_BUSY. -/
def rowStep (f : BitVec 2) (r : BitVec 5) : State → Result :=
  running (require (decide (r.toNat ≤ 24)) .indexOutOfRange
    (atSeq 0#4 f r (whenIdle (runHeld stepParts))))

/-- The rows 0..24 of one field, in order (R142). -/
def fieldSteps (f : BitVec 2) : List (State → Result) :=
  (List.range Config.nRows).map (fun r => rowStep f (BitVec.ofNat 5 r))

/-- RFRAME from SEQ = (BLANK, 0, 0): four fields, outer, of 25 rows, inner (R142). DESIGN CHOICE
(notes/assumptions/31; safe): SEQ is looked at before SER_BUSY. -/
def frameScan : State → Result :=
  running (atSeq 0#4 0#2 0#5 (whenIdle (runHeld (fieldSteps 0#2 ++ fieldSteps 1#2 ++ fieldSteps 2#2
    ++ fieldSteps 3#2))))

/-- FRAME from SEQ = (ATICK, 0, 0) (R200). -/
def frameStep : State → Result := runAll [atickStep, frameScan]

/-! ## The meanings -/

/-- SETTLE (R140, R141). -/
def execSettle (s : State) : Result := settleStep s
/-- RSTEP f, r (R138). -/
def execRstep (f : BitVec 2) (r : BitVec 5) (s : State) : Result := rowStep f r s
/-- RFRAME (R142). -/
def execRframe (s : State) : Result := frameScan s
/-- FRAME (R200). -/
def execFrame (s : State) : Result := frameStep s
/-- RUN (R201): its first micro-operation, the ATICK of the first FRAME. The sequencer performs the rest of it,
FRAME after FRAME without end, and edges fall anywhere in it; RUN never returns, so whatever was written after
it is never reached (notes/assumptions/18). -/
def execRun (s : State) : Result := andThen (atickStep s) (always (fun t => { t with written := [] }))

end Sys2Proof.Machine
end

