-- ==== Sys2Proof/Machine/Dispatch.lean ====
section
/-! DEFINITION. One arm per row of spec/opcode_table.json: which meaning each instruction has. -/

namespace Sys2Proof.Machine

def exec (i : Instr) (s : State) : Host.Outcome State Fault Refusal :=
  match i with
  | .blank => Sys2Proof.Machine.execBlank s
  | .tx0 => Sys2Proof.Machine.execTx0 s
  | .wait0 => Sys2Proof.Machine.execWait0 s
  | .tx1 => Sys2Proof.Machine.execTx1 s
  | .wait1 => Sys2Proof.Machine.execWait1 s
  | .tx2 => Sys2Proof.Machine.execTx2 s
  | .wait2 => Sys2Proof.Machine.execWait2 s
  | .tx3 => Sys2Proof.Machine.execTx3 s
  | .wait3 => Sys2Proof.Machine.execWait3 s
  | .latchset => Sys2Proof.Machine.execLatchset s
  | .latchclr => Sys2Proof.Machine.execLatchclr s
  | .selrow => Sys2Proof.Machine.execSelrow s
  | .settle => Sys2Proof.Machine.execSettle s
  | .atick => Sys2Proof.Machine.execAtick s
  | .transmit b0 b1 b2 b3 => Sys2Proof.Machine.execTransmit b0 b1 b2 b3 s
  | .rstep f r => Sys2Proof.Machine.execRstep f r s
  | .rframe => Sys2Proof.Machine.execRframe s
  | .frame => Sys2Proof.Machine.execFrame s
  | .run => Sys2Proof.Machine.execRun s
  | .sendbyte v => Sys2Proof.Machine.execSendbyte v s
  | .ball => Sys2Proof.Machine.execBall s
  | .erase => Sys2Proof.Machine.execErase s
  | .bounce => Sys2Proof.Machine.execBounce s
  | .move => Sys2Proof.Machine.execMove s
  | .draw => Sys2Proof.Machine.execDraw s
  | .noise => Sys2Proof.Machine.execNoise s
  | .sershift => Sys2Proof.Machine.execSershift s
  | .btnedge => Sys2Proof.Machine.execBtnedge s
  | .pwrdown => Sys2Proof.Machine.execPwrdown s
  | .reset => Sys2Proof.Machine.execReset s
  | .rowselNone => Sys2Proof.Machine.execRowselNone s
  | .rowselRow0 => Sys2Proof.Machine.execRowselRow0 s
  | .rowselRow1 => Sys2Proof.Machine.execRowselRow1 s
  | .rowselRow2 => Sys2Proof.Machine.execRowselRow2 s
  | .rowselRow3 => Sys2Proof.Machine.execRowselRow3 s
  | .rowselRow4 => Sys2Proof.Machine.execRowselRow4 s
  | .rowselRow5 => Sys2Proof.Machine.execRowselRow5 s
  | .rowselRow6 => Sys2Proof.Machine.execRowselRow6 s
  | .rowselRow7 => Sys2Proof.Machine.execRowselRow7 s
  | .rowselRow8 => Sys2Proof.Machine.execRowselRow8 s
  | .rowselRow9 => Sys2Proof.Machine.execRowselRow9 s
  | .rowselRow10 => Sys2Proof.Machine.execRowselRow10 s
  | .rowselRow11 => Sys2Proof.Machine.execRowselRow11 s
  | .rowselRow12 => Sys2Proof.Machine.execRowselRow12 s
  | .rowselRow13 => Sys2Proof.Machine.execRowselRow13 s
  | .rowselRow14 => Sys2Proof.Machine.execRowselRow14 s
  | .rowselRow15 => Sys2Proof.Machine.execRowselRow15 s
  | .rowselRow16 => Sys2Proof.Machine.execRowselRow16 s
  | .rowselRow17 => Sys2Proof.Machine.execRowselRow17 s
  | .rowselRow18 => Sys2Proof.Machine.execRowselRow18 s
  | .rowselRow19 => Sys2Proof.Machine.execRowselRow19 s
  | .rowselRow20 => Sys2Proof.Machine.execRowselRow20 s
  | .rowselRow21 => Sys2Proof.Machine.execRowselRow21 s
  | .rowselRow22 => Sys2Proof.Machine.execRowselRow22 s
  | .rowselRow23 => Sys2Proof.Machine.execRowselRow23 s
  | .rowselRow24 => Sys2Proof.Machine.execRowselRow24 s
  | .rowselReservedHi h => Sys2Proof.Machine.execRowselReservedHi h s
  | .rowselReservedBoth h l => Sys2Proof.Machine.execRowselReservedBoth h l s
  | .rowword c => Sys2Proof.Machine.execRowword c s
  | .rowburst a b c d => Sys2Proof.Machine.execRowburst a b c d s
  | .genBall => Sys2Proof.Machine.execGenBall s
  | .genNoise => Sys2Proof.Machine.execGenNoise s
  | .velM2 a => Sys2Proof.Machine.execVelM2 a s
  | .velM1 a => Sys2Proof.Machine.execVelM1 a s
  | .velP1 a => Sys2Proof.Machine.execVelP1 a s
  | .velP2 a => Sys2Proof.Machine.execVelP2 a s

end Sys2Proof.Machine
end

