-- ==== Sys2Proof/Machine/Schedule.lean ====
section
/-! DEFINITION. Which agent takes the next step, and with which instruction (spec/46_main_loop.md R202,
R203): a written operation put before the machine (R98), else a button edge that is due, else the serial
primitive when SER_BUSY = 1, else the micro-operation SEQ.UOP names. A thread of control held at a byte that
never completes has no step (R111, R227). -/

namespace Sys2Proof.Machine

/-- What a step does. -/
inductive Pick where
  /-- An instruction is performed, in this state. -/
  | perform (i : Instr) (s : State)
  /-- No agent goes on: the hang of R227, in which nothing but the time to the next edge passes. -/
  | held (s : State)
  /-- The machine stands still. -/
  | stop (f : Fault)
  /-- The step is refused. -/
  | refuse (r : Refusal)
  deriving DecidableEq, Repr

/-- By which name a written operation that does not decode is refused: R211's where it gives one (an
unlisted OPID and an unreachable velocity pattern, U2, U4; a row outside 0..24, U5), else the model's own
(DESIGN CHOICE, notes/assumptions/29; safe), which an RSTEP of a field above 3 and a code byte wider
than its code (GEN above 1, VEL above 7) are too. -/
def refusalOf : DecodeError → Refusal
  | .unknownOpid => .illFormedState
  | .unreachableVelocity => .illFormedState
  | .rowOutOfRange => .indexOutOfRange
  | .fieldOutOfRange => .undecodable
  | .noBytes => .undecodable
  | .missingOperand => .undecodable
  | .notRowWord => .undecodable
  | .unknownGenCode => .undecodable
  | .unknownVelCode => .undecodable
  | .unknownAxis => .undecodable
  | .trailingBytes => .undecodable

/-- The UOP code of a micro-operation (R94); none for the other rows of the table. -/
def uopCode (i : Instr) : Option (BitVec 4) :=
  match (encode i).fmt, (encode i).bytes with
  | .opid, [b] => if b.toNat ≤ 13 then some (b.extractLsb' 0 4) else none
  | _, _ => none

/-- The sequencer set to where an operation put before it begins: a micro-operation at its own code,
ATICK, FRAME and RUN at (ATICK, 0, 0), RSTEP f, r at (BLANK, f, r), RFRAME at (BLANK, 0, 0); the other rows
leave SEQ (R155, R138, R142, R200; notes/assumptions/26). -/
def State.entry (i : Instr) (s : State) : State :=
  if i = .atick ∨ i = .frame ∨ i = .run then s.setSeq 13#4 0#2 0#5
  else if i = .rframe then s.setSeq 0#4 0#2 0#5
  else
    match i with
    | .rstep f r => s.setSeq 0#4 f r
    | i =>
      match uopCode i with
      | some u => s.setUop u
      | none => s

/-- Whether an instruction is a WAITk that the running transfer holds (R111). -/
def holds (i : Instr) (s : State) : Bool :=
  s.serBusy && (i == .wait0 || i == .wait1 || i == .wait2 || i == .wait3)

/-- The steps of agents outside the sequencer (R93 kind env), which no hold concerns. -/
def isEnv (i : Instr) : Bool :=
  i == .sershift || i == .btnedge || i == .pwrdown || i == .reset

/-- A byte is in flight and never completes (R227). -/
def State.stuck (s : State) : Bool := s.serBusy && s.frozen

/-- What is done in a state that holds no value a run cannot reach; another is refused by name (R95, R211),
the halted one too. -/
def whenSound (s : State) (p : Pick) : Pick :=
  match stateDefect s with
  | some r => .refuse r
  | none => p

/-- The micro-operation a UOP code names; 14 and 15 name none (R94, R95). -/
def uopInstr (u : BitVec 4) : Option Instr :=
  (decodeCmd { fmt := .opid, bytes := [u.setWidth 8] }).toOption

/-- The time to the next edge, one step of the other agents nearer (R202). -/
def nearer : List Nat → List Nat
  | [] => []
  | d :: rest => (d - 1) :: rest

/-- With no edge due: SERSHIFT when a transfer runs, if the primitive completes it, else the sequencer (R202,
R203). -/
def pickAgent (s : State) : Pick :=
  if s.stuck then .held s
  else if s.serBusy then .perform .sershift s
  else
    match uopInstr s.uop with
    | some i => .perform i s
    | none => .refuse .illFormedState

/-- The fixed program RUN with the button: an edge that is due comes first (R202, R213). -/
def pickFree (s : State) : Pick :=
  match s.edges with
  | 0 :: rest => .perform .btnedge { s with edges := rest }
  | later => pickAgent { s with edges := nearer later }

/-- A written operation, taken off the list. One of the thread of control does not begin while that thread is
held at a byte that never completes, and then only edges are taken (R227); a WAITk held at one that does
complete lets SERSHIFT go first (R111, R226). -/
def pickWritten (i : Instr) (rest : List Cmd) (s : State) : Pick :=
  if isEnv i then .perform i { s with written := rest }
  else if s.stuck then pickFree s
  else if holds i s then whenSound (s.entry i) (.perform .sershift (s.entry i))
  else
    whenSound (State.entry i { s with written := rest })
      (.perform i (State.entry i { s with written := rest }))

/-- A running machine picks; a halted one stands still (R34), and so does one whose power-down handler waits
for a byte that never completes, edges included (R219, R227). -/
def whenRunning (s : State) (p : Pick) : Pick :=
  if s.halted then .stop .halted
  else if s.caller = .handler then .held s
  else p

/-- What the next step does. RESET is taken from any state (R240). -/
def pick (s : State) : Pick :=
  match s.written with
  | [] => whenSound s (whenRunning s (pickFree s))
  | c :: rest =>
    match decodeCmd c with
    | .ok i =>
      if i = .reset then .perform .reset { s with written := rest }
      else whenSound s (whenRunning s (pickWritten i rest s))
    | .error e => whenSound s (whenRunning s (.refuse (refusalOf e)))

/-- The condition under which an instruction put before the machine can be taken, where reset does not
leave it so: the pulse begun for LATCHCLR, a transfer in flight that completes for SERSHIFT, ROWSEL = 0 for
SELROW and the row codes (notes/assumptions/24). -/
def State.enable (i : Instr) (s : State) : State :=
  match i with
  | .latchclr => { s with latch := true, uop := 10#4 }
  | .sershift =>
    { s with serBusy := true, uop := if isWaitUop s.uop then s.uop else 2#4,
             serialLeft := if s.frozen then some 1 else s.serialLeft }
  | i =>
    if i = .selrow ∨ (encode i).fmt = .rs then { s with rowsel := 0x00#8 } else s

/-- The instruction of a table word put first among the written operations, and enabled. -/
def State.putFirst (c : Cmd) (s : State) : State :=
  match decodeCmd c with
  | .ok i => { s.enable i with written := c :: s.written }
  | .error _ => { s with written := c :: s.written }

end Sys2Proof.Machine
end

