-- ==== Sys2Proof/Machine/Step.lean ====
section
/-! DEFINITION. One step of the machine: what the schedule picks, done. -/

namespace Sys2Proof.Machine

/-- What was picked, done. -/
def outcome : Pick → Host.Outcome State Fault Refusal
  | .perform i s => exec i s
  | .held s => .next s
  | .stop f => .fault f
  | .refuse r => .refused r

/-- One step (spec/46_main_loop.md R202). -/
def step (s : State) : Host.Outcome State Fault Refusal := outcome (pick s)

/-- The instruction of a table word stored where the next step takes its instruction from
(notes/assumptions/7 and 24). -/
def State.withFetchWord (s : State) (nbits w : Nat) : State :=
  s.putFirst (tableCmd nbits w)

end Sys2Proof.Machine
end

