-- ==== Sys2Proof/Safety.lean ====
section
/-! DEFINITION. The terms claims use: which cells are lit (spec/10_state.md R44), the invariants of every
reachable state (spec/70_reset_and_hazards.md R252), the trace property of spec/41_row_addresser.md R128,
and the words for an outcome. -/

namespace Sys2Proof.Machine

/-! ## Light -/

/-- Lit(r, c) (R44); undefined, hence none, while ROWSEL holds a reserved code (R86). DESIGN CHOICE
(notes/assumptions/33): R44 defines it for cells, so r and c are meant to be at most 24. For c = 25..31 it shows a
bit of COLOUT that drives no column (R43, U18), which is the light of no cell. -/
def lit (s : State) (r c : Nat) : Option Bool :=
  match rowOf s.rowsel with
  | .none => some false
  | .row q => some (q == r && s.colout.getLsbD c)
  | .reserved => none

/-- The rows powered at an instant (R44, R129). -/
def poweredRows (s : State) : List Nat :=
  (List.range Config.nRows).filter (fun r => s.rowsel == rowCode r)

/-- The plane word a (field, row) step shows (R117, R136). -/
def State.rowWord (s : State) (f : BitVec 2) (r : Nat) : Word := s.word (planeOf f) r

/-! ## The trace -/

/-- The nine events of one (field, row) step that shows word `w` on row `r`, newest first (R138). -/
def stepEvents (w : Word) (r : Nat) : List Event :=
  [.delay, .sel (rowCode r), .latch false, .latch true,
   .byte (byteOf 3 w), .byte (byteOf 2 w), .byte (byteOf 1 w), .byte (byteOf 0 w), .sel 0x00#8]

/-- The events of the first `n` rows of one field, newest first (R142). -/
def fieldEvents (s : State) (f : BitVec 2) : Nat → List Event
  | 0 => []
  | n + 1 => stepEvents (s.rowWord f n) n ++ fieldEvents s f n

/-- The events of one scan, newest first (R142, R143). -/
def scanEvents (s : State) : List Event :=
  fieldEvents s 3#2 25 ++ fieldEvents s 2#2 25 ++ fieldEvents s 1#2 25 ++ fieldEvents s 0#2 25

/-- The last value written to ROWSEL by a trace, newest first; reset leaves 0 (R46). -/
def lastSel : List Event → Byte
  | [] => 0x00#8
  | .sel v :: _ => v
  | .byte _ :: rest => lastSel rest
  | .latch _ :: rest => lastSel rest
  | .delay :: rest => lastSel rest
  | .halt :: rest => lastSel rest

/-- Blank before select, over a trace, newest first: before every SEL v with v ≠ 0 the port was last
written 0 (R128). -/
def blankBeforeSelect : List Event → Bool
  | [] => true
  | .sel v :: rest => (v == 0x00#8 || lastSel rest == 0x00#8) && blankBeforeSelect rest
  | .byte _ :: rest => blankBeforeSelect rest
  | .latch _ :: rest => blankBeforeSelect rest
  | .delay :: rest => blankBeforeSelect rest
  | .halt :: rest => blankBeforeSelect rest

/-! ## Invariants of reachable states (R252) -/

/-- Both planes are in canonical form. -/
def memWf (s : State) : Bool := bufWf s.dim && bufWf s.bright

/-- R252 (1): bits 31:25 of every buffer word are 0. -/
def memLow25 (s : State) : Bool := bufLow25 s.dim && bufLow25 s.bright

/-- R252 (2) to (6), (9) and (10), with the part of (8) that U4 lists: what `registersOk` says. -/
def regsInv (s : State) : Bool := registersOk s

/-- The power-down has begun: it has halted the block, or it waits for a byte that never completes. -/
def State.powering (s : State) : Bool := s.halted || s.caller == .handler

/-- R252 (7): ROWSEL is 0 or a row code; it is 0 at UOP 1 to 11, and at SETTLE it is RowCode(ROW). The last of
these holds only until the power-down begins (notes/assumptions/25). -/
def rowselInv (s : State) : Bool :=
  (s.rowsel == 0x00#8 || (List.range Config.nRows).any (fun r => s.rowsel == rowCode r))
  && (!(decide (1 ≤ s.uop.toNat) && decide (s.uop.toNat ≤ 11)) || s.rowsel == 0x00#8)
  && (s.powering || s.uop != 12#4 || s.rowsel == rowCode s.row.toNat)

/-- R252 (8): LATCH = 1 exactly when UOP = LATCHCLR, while HALTED = 0 (notes/assumptions/25). -/
def latchInv (s : State) : Bool := s.halted || s.latch == (s.uop == 10#4)

/-- Who waits for a byte in flight: the sequencer, or the power-down handler with every row off, HALTED = 0 and a
byte that never completes (R203, R227). No SENDBYTE or TRANSMIT is performed on its own. -/
def callerInv (s : State) : Bool :=
  s.caller == .sequencer
  || (s.caller == .handler && !s.halted && s.serBusy && s.frozen && s.rowsel == 0x00#8)

/-- A halted block is dark and quiet (R215): no row, no latch, no transfer, an empty chain. -/
def haltedInv (s : State) : Bool :=
  !s.halted || (s.rowsel == 0x00#8 && !s.latch && !s.serBusy && s.shift == 0#32 && s.colout == 0#32)

/-- The trace keeps blank before select and agrees with the port (R128). -/
def traceInv (s : State) : Bool := blankBeforeSelect s.trace && lastSel s.trace == s.rowsel

/-- The invariants of R252 for the fixed program, with nothing written put before the machine and the
parameters in the ranges of R9. -/
def Invariants (s : State) : Prop :=
  s.cfg.ok = true ∧ s.written = [] ∧ memWf s = true ∧ memLow25 s = true ∧ regsInv s = true
  ∧ rowselInv s = true ∧ latchInv s = true ∧ callerInv s = true ∧ haltedInv s = true ∧ traceInv s = true

/-- The row burst in progress (R42, R110 to R112, R249): how much of the current row's word the chain holds
at each micro-operation, that a byte in flight is the right one, and that from LATCHSET on the column
outputs show the whole word. The power-down overwrites the chain, so it holds until that begins. -/
def burstInv (s : State) : Bool :=
  let w := s.rowWord s.field s.row.toNat
  s.powering
  || (s.uop == 0#4) || (s.uop == 1#4) || (s.uop == 13#4)
  || (s.uop == 2#4 && (if s.serBusy then s.sdr == byteOf 0 w
      else s.shift.extractLsb' 0 8 == byteOf 0 w))
  || (s.uop == 3#4 && s.shift.extractLsb' 0 8 == byteOf 0 w)
  || (s.uop == 4#4 && (if s.serBusy then s.sdr == byteOf 1 w && s.shift.extractLsb' 0 8 == byteOf 0 w
      else s.shift.extractLsb' 0 16 == w.extractLsb' 16 16))
  || (s.uop == 5#4 && s.shift.extractLsb' 0 16 == w.extractLsb' 16 16)
  || (s.uop == 6#4 && (if s.serBusy then s.sdr == byteOf 2 w && s.shift.extractLsb' 0 16 == w.extractLsb' 16 16
      else s.shift.extractLsb' 0 24 == w.extractLsb' 8 24))
  || (s.uop == 7#4 && s.shift.extractLsb' 0 24 == w.extractLsb' 8 24)
  || (s.uop == 8#4 && (if s.serBusy then s.sdr == byteOf 3 w && s.shift.extractLsb' 0 24 == w.extractLsb' 8 24
      else s.shift == w))
  || (s.uop == 9#4 && s.shift == w)
  || ((s.uop == 10#4 || s.uop == 11#4 || s.uop == 12#4) && s.colout == w)

/-! ## Outcomes and runs -/

/-- The outcome is a next state with the property `P`. -/
def NextWith (x : Host.Outcome State Fault Refusal) (P : State → Prop) : Prop :=
  ∃ t, x = .next t ∧ P t

/-- `n` calls of an instruction, each put at its own entry (R98, P3). -/
def repeatInstr (i : Instr) : Nat → State → Host.Outcome State Fault Refusal
  | 0, s => .next s
  | n + 1, s => andThen (exec i (s.entry i)) (repeatInstr i n)

/-- `n` steps of the machine, one after another. -/
def steps : Nat → State → Host.Outcome State Fault Refusal
  | 0, s => .next s
  | n + 1, s => andThen (step s) (steps n)

end Sys2Proof.Machine
end

