-- ==== Sys2Proof/Certificates/Slice0/Obligations.lean ====
section
/-! DEFINITION. The statements for the provers, from the numbered rules of spec/. A result is written as a
record update of the state before, so each such statement is the instruction's frame as well: every
register, flag, buffer word and event it does not name is as it was. -/

open Sys2Proof Sys2Proof.Machine

/-! ## Terms the statements share -/

namespace Sys2Proof.Claims

/-- TX0 to TX3. -/
def txOf : Nat → Instr
  | 0 => .tx0
  | 1 => .tx1
  | 2 => .tx2
  | _ => .tx3

/-- WAIT0 to WAIT3. -/
def waitOf : Nat → Instr
  | 0 => .wait0
  | 1 => .wait1
  | 2 => .wait2
  | _ => .wait3

/-- The current row's word: field 0 reads Dim, fields 1 to 3 Bright. -/
def currentWord (s : State) : Word :=
  bufRead (if s.field = 0#2 then s.dim else s.bright) s.row.toNat

/-- The row-select code by R84's two cases, as a number. -/
def codeOf (r : Nat) : Nat := if r ≤ 14 then r + 1 else (r - 14) * 16

/-- The instruction that puts row r's code on the port. -/
def rowselOf : Nat → Instr
  | 0 => .rowselRow0 | 1 => .rowselRow1 | 2 => .rowselRow2 | 3 => .rowselRow3 | 4 => .rowselRow4
  | 5 => .rowselRow5 | 6 => .rowselRow6 | 7 => .rowselRow7 | 8 => .rowselRow8 | 9 => .rowselRow9
  | 10 => .rowselRow10 | 11 => .rowselRow11 | 12 => .rowselRow12 | 13 => .rowselRow13 | 14 => .rowselRow14
  | 15 => .rowselRow15 | 16 => .rowselRow16 | 17 => .rowselRow17 | 18 => .rowselRow18 | 19 => .rowselRow19
  | 20 => .rowselRow20 | 21 => .rowselRow21 | 22 => .rowselRow22 | 23 => .rowselRow23 | _ => .rowselRow24

/-- The fourteen micro-operations (R94). -/
def uops : List Instr :=
  [.blank, .tx0, .wait0, .tx1, .wait1, .tx2, .wait2, .tx3, .wait3, .latchset, .latchclr, .selrow, .settle, .atick]

/-- The count of the serial primitive once it has completed `n` bytes. -/
def leftAfter (n : Nat) (s : State) : Option Nat := s.serialLeft.map (fun k => k - n)

/-- The state after the bytes of a row burst and its latch pulse. -/
def afterBurst (b0 b1 b2 b3 : Byte) (s : State) : State :=
  { s with sdr := b3, shift := b0 ++ b1 ++ b2 ++ b3, colout := b0 ++ b1 ++ b2 ++ b3, latch := false,
           serialLeft := leftAfter 4 s,
           trace := [.latch false, .latch true, .byte b3, .byte b2, .byte b1, .byte b0] ++ s.trace }

/-- Byte `n` of a word, 0 at the top. -/
def byteAt (n : Nat) (w : Word) : Byte := w.extractLsb' (24 - 8 * n) 8

/-- The state in which byte `n` of a word is in flight and never completes: the bytes above it are in the
chain, and none is completed any more (R227, in the form of notes/assumptions/28). -/
def heldAtByte (n : Nat) (w : Word) (s : State) : State :=
  { s with sdr := byteAt n w, serBusy := true, shift := (s.shift <<< (8 * n)) ||| (w >>> (32 - 8 * n)),
           serialLeft := some 0,
           trace := ((List.range (n + 1)).map (fun k => .byte (byteAt k w))).reverse ++ s.trace }

/-- How many bytes the power-down completes: sixteen, and the one in flight. -/
def powerDownBytes (s : State) : Nat := 16 + s.serBusy.toNat

/-- The state after the power-down sequence (R215). -/
def afterPowerDown (s : State) : State :=
  { s with rowsel := 0x00#8, latch := false, serBusy := false, sdr := 0x00#8, shift := 0#32,
           colout := 0#32, halted := true, serialLeft := leftAfter (powerDownBytes s) s,
           trace := [.halt, .latch false, .latch true] ++ List.replicate 16 (.byte 0x00#8)
             ++ [.sel 0x00#8] ++ s.trace }

/-- A row of the block at (BX, BY): BY to BY + 3. -/
def inBlock (s : State) (r : Nat) : Prop := s.ballY.toNat ≤ r ∧ r ≤ s.ballY.toNat + 3

/-- The glyph's row pattern for plane p that falls on row r, at its place (R88, R178). -/
def glyphAt (s : State) (p : Plane) (r : Nat) : Word :=
  placeGlyph (glyphRow (match p with | .dim => s.cfg.glyphDim | .bright => s.cfg.glyphBright)
    (r - s.ballY.toNat)) s.ballX.toNat

/-- A four-bit block mask at column BX. -/
def blockMask (s : State) : Word := 15#32 <<< s.ballX.toNat

/-- What only the two planes may differ in. -/
def OnlyBuffers (s t : State) : Prop := t = { s with dim := t.dim, bright := t.bright }

/-- The position, the velocity and the pace are reachable ones (R27 to R29). -/
def ballReady (s : State) : Prop := ballOk s = true ∧ s.ballPace.toNat ≤ 9

/-- FRAME_CTR is below the current budget (R26). -/
def counterReady (s : State) : Prop := s.frameCtr.toNat < budget s.gen

/-- The outputs, the flags, the press counter, the parameters, the inputs but for the draws, and the trace are
as they were. -/
def OutputsKept (s t : State) : Prop :=
  t.rowsel = s.rowsel ∧ t.latch = s.latch ∧ t.sdr = s.sdr ∧ t.serBusy = s.serBusy ∧ t.halted = s.halted
  ∧ t.shift = s.shift ∧ t.colout = s.colout ∧ t.pressCnt = s.pressCnt ∧ t.cfg = s.cfg
  ∧ t.edges = s.edges ∧ t.serialLeft = s.serialLeft ∧ t.caller = s.caller ∧ t.written = s.written
  ∧ t.trace = s.trace

/-- The buffers and the animation record are as they were. -/
def AnimationKept (s t : State) : Prop :=
  t.dim = s.dim ∧ t.bright = s.bright ∧ t.gen = s.gen ∧ t.frameCtr = s.frameCtr ∧ t.ballPace = s.ballPace
  ∧ t.ballX = s.ballX ∧ t.ballY = s.ballY ∧ t.ballDx = s.ballDx ∧ t.ballDy = s.ballDy
  ∧ t.draws = s.draws ∧ t.freeCount = s.freeCount

/-- A scan that byte `n` of its four hundred holds: in the WAITk of that byte, with every row off (R142, R227). -/
def HeldScan (n : Nat) (s t : State) : Prop :=
  t.serBusy = true ∧ t.serialLeft = some 0 ∧ t.halted = false ∧ t.rowsel = 0x00#8
  ∧ t.uop.toNat = 2 * (n % 4) + 2 ∧ t.field.toNat = n / 100 ∧ t.row.toNat = n / 4 % 25
  ∧ t.sdr = byteAt (n % 4) (currentWord t) ∧ t.trace.length = s.trace.length + 9 * (n / 4) + n % 4 + 2

/-- An edge falls now. -/
def edgeDue (s : State) : Prop := ∃ rest, s.edges = 0 :: rest

/-- What is put before the machine does not begin with RESET, which is taken from any state. -/
def noResetFirst (s : State) : Prop := ∀ c rest, s.written = c :: rest → decodeCmd c ≠ .ok .reset

/-- A register value that R95 or U4 lists as unreachable, ROWSEL apart; the last two clauses leave out who waits
for a byte outside the sequencer (notes/assumptions/28). -/
def unreachable (s : State) : Prop :=
  21 < s.ballX.toNat ∨ 21 < s.ballY.toNat ∨ s.ballDx ∉ [1#3, 2#3, 6#3, 7#3] ∨ s.ballDy ∉ [1#3, 2#3, 6#3, 7#3]
  ∨ 9 < s.ballPace.toNat ∨ (s.gen = .ball ∧ 5000 ≤ s.frameCtr.toNat) ∨ (s.gen = .noise ∧ 1000 ≤ s.frameCtr.toNat)
  ∨ 24 < s.row.toNat ∨ 13 < s.uop.toNat ∨ (s.uop = 13#4 ∧ (s.field ≠ 0#2 ∨ s.row ≠ 0#5))
  ∨ (s.latch = true ∧ s.uop ≠ 10#4)
  ∨ (s.serBusy = true ∧ s.uop ∉ [2#4, 4#4, 6#4, 8#4] ∧ s.caller = .sequencer)
  ∨ (s.halted = false ∧ s.caller ≠ .handler ∧ s.cfg.pressEdgeThreshold ≤ s.pressCnt)

/-- The rows of the table whose meaning writes the buffers or the animation record. -/
def writesAnimation : Instr → Bool
  | .atick | .frame | .run | .ball | .erase | .bounce | .move | .draw | .noise | .reset => true
  | .genBall | .genNoise | .velM2 _ | .velM1 _ | .velP1 _ | .velP2 _ => true
  | _ => false

/-- The two reserved classes of row-select codes. -/
def isReserved : Instr → Bool
  | .rowselReservedHi _ | .rowselReservedBoth _ _ => true
  | _ => false

end Sys2Proof.Claims

open Sys2Proof.Claims

/-! ## Row Transmitter -/

/-- R110: TXk writes byte k of the current row's word, `w[31-8k : 24-8k]`, to SDR and sets SER_BUSY. -/
def Obligations.TxStartsByteOfRow : Prop :=
  ∀ (k : Nat) (s : State), k < 4 → s.halted = false → s.uop.toNat = 2 * k + 1 → s.serBusy = false →
    s.row.toNat ≤ 24 →
    exec (txOf k) s = .next
      { s with sdr := (currentWord s).extractLsb' (24 - 8 * k) 8, serBusy := true,
               uop := BitVec.ofNat 4 (2 * k + 2),
               trace := .byte ((currentWord s).extractLsb' (24 - 8 * k) 8) :: s.trace }

/-- R111: WAITk holds while SER_BUSY = 1 and then moves on. -/
def Obligations.WaitHoldsThenMovesOn : Prop :=
  ∀ (k : Nat) (s : State), k < 4 → s.halted = false → s.uop.toNat = 2 * k + 2 →
    exec (waitOf k) s = .next (if s.serBusy then s else { s with uop := BitVec.ofNat 4 (2 * k + 3) })

/-- R112: LATCHSET raises LATCH and commits SHIFT to COLOUT. -/
def Obligations.LatchsetCommitsShift : Prop :=
  ∀ s : State, s.halted = false → s.uop = 9#4 → s.serBusy = false →
    exec .latchset s = .next { s with latch := true, colout := s.shift, uop := 10#4,
                                      trace := .latch true :: s.trace }

/-- R113: LATCHCLR clears LATCH; COLOUT and SHIFT are unchanged. -/
def Obligations.LatchclrEndsPulse : Prop :=
  ∀ s : State, s.halted = false → s.uop = 10#4 → s.latch = true →
    exec .latchclr s = .next { s with latch := false, uop := 11#4, trace := .latch false :: s.trace }

/-- R115: SENDBYTE v; on completion v stands in SHIFT[7:0] and the earlier bytes one byte higher. With a
primitive that completes no byte its caller waits for good (R227, in the form of notes/assumptions/28). -/
def Obligations.SendbyteShiftsOneByte : Prop :=
  ∀ (v : Byte) (s : State), s.halted = false → s.serBusy = false →
    exec (.sendbyte v) s = .next
      (if s.frozen then { s with sdr := v, serBusy := true, caller := .written, trace := .byte v :: s.trace }
       else { s with sdr := v, shift := (s.shift <<< 8) ||| v.setWidth 32, serialLeft := leftAfter 1 s,
                     trace := .byte v :: s.trace })

/-- R114: TRANSMIT sends four bytes, the first to the top of the word, then one latch pulse. Its bytes complete,
as R116 assumes; where one does not is in RowburstAndRowwordAreSent. -/
def Obligations.TransmitCommitsFourBytes : Prop :=
  ∀ (b0 b1 b2 b3 : Byte) (s : State), s.halted = false → s.serBusy = false → s.completes 4 = true →
    exec (.transmit b0 b1 b2 b3) s = .next (afterBurst b0 b1 b2 b3 s)

/-- R81 and R82, with the model's choice of notes/assumptions/9: a row burst is its four bytes sent in order
and one latch pulse, as TRANSMIT is, and a row word is sent as it is, most significant byte first, bits 31:25
zero. At the byte that never completes the burst waits for good, with no latch pulse (R227, in the form of
notes/assumptions/28). -/
def Obligations.RowburstAndRowwordAreSent : Prop :=
  ∀ s : State, s.halted = false → s.serBusy = false →
    (∀ a b c d : Byte, exec (.transmit a b c d) s = exec (.rowburst a b c d) s
      ∧ (s.completes 4 = true → exec (.rowburst a b c d) s = .next (afterBurst a b c d s))
      ∧ ∀ n, n < 4 → s.serialLeft = some n →
          exec (.rowburst a b c d) s = .next { heldAtByte n (a ++ b ++ c ++ d) s with caller := .written })
    ∧ ∀ c : BitVec 25, exec (.rowword c) s
        = exec (.rowburst (byteAt 0 (c.setWidth 32)) (byteAt 1 (c.setWidth 32)) (byteAt 2 (c.setWidth 32))
            (byteAt 3 (c.setWidth 32))) s
      ∧ (s.completes 4 = true → NextWith (exec (.rowword c) s) (fun t => t.colout = c.setWidth 32
        ∧ t.shift = c.setWidth 32 ∧ t.serBusy = false ∧ t.rowsel = s.rowsel))

/-! ## Row Addresser -/

/-- R125: BLANK clears the port, whatever it held. -/
def Obligations.BlankClearsPort : Prop :=
  ∀ s : State, s.halted = false → s.uop = 0#4 →
    exec .blank s = .next { s with rowsel := 0x00#8, uop := 1#4, trace := .sel 0x00#8 :: s.trace }

/-- R126: SELROW writes ROW + 1, or (ROW - 14) in the high nibble. -/
def Obligations.SelrowWritesRowCode : Prop :=
  ∀ s : State, s.halted = false → s.uop = 11#4 → s.rowsel = 0x00#8 → s.row.toNat ≤ 24 →
    exec .selrow s = .next
      { s with rowsel := BitVec.ofNat 8 (codeOf s.row.toNat), uop := 12#4,
               trace := .sel (BitVec.ofNat 8 (codeOf s.row.toNat)) :: s.trace }

/-- R127: a selection with the port not 0 is refused, SELROW's and a row code's alike. -/
def Obligations.SelectWithoutBlankRefused : Prop :=
  ∀ s : State, s.halted = false → s.rowsel ≠ 0x00#8 →
    (s.uop = 11#4 → s.row.toNat ≤ 24 → exec .selrow s = .refused .selectWithoutBlank)
    ∧ ∀ r, r ≤ 24 → exec (rowselOf r) s = .refused .selectWithoutBlank

/-- R84 and R85: RowCode's two cases, never 0 and injective on 0..24; RowOf inverts it and reads no other
code as a row. -/
def Obligations.RowCodeAndRowOfAreInverse : Prop :=
  (∀ r, r ≤ 24 → (rowCode r).toNat = (if r ≤ 14 then r + 1 else (r - 14) * 16) ∧ rowCode r ≠ 0x00#8
    ∧ ∀ q, q ≤ 24 → rowCode q = rowCode r → q = r)
  ∧ rowOf 0x00#8 = .none ∧ (∀ r, r ≤ 24 → rowOf (rowCode r) = .row r)
  ∧ ∀ (v : Byte) (r : Nat), rowOf v = .row r → r ≤ 24 ∧ v = rowCode r

/-- R83 and R84 with the model's choice of notes/assumptions/8: a row-select code as an instruction is its
write to the port. -/
def Obligations.RowselCodesWriteThePort : Prop :=
  ∀ s : State, s.halted = false →
    exec .rowselNone s = .next { s with rowsel := 0x00#8, trace := .sel 0x00#8 :: s.trace }
    ∧ ∀ r, r ≤ 24 → s.rowsel = 0x00#8 →
        exec (rowselOf r) s = .next { s with rowsel := BitVec.ofNat 8 (codeOf r),
                                             trace := .sel (BitVec.ofNat 8 (codeOf r)) :: s.trace }

/-- R86 with three choices of the model: the reserved codes are refused by name, as instructions (that a code
is an instruction is notes/assumptions/8) and as a value found in ROWSEL. That the step checks the state before
the fault halted and before a written operation, RESET excepted, is notes/assumptions/16, and that
reservedRowCode comes before the other names for an unreachable state is notes/assumptions/30. -/
def Obligations.ReservedRowCodesRefused : Prop :=
  (∀ (h : BitVec 4) (s : State), exec (.rowselReservedHi h) s = .refused .reservedRowCode)
  ∧ (∀ (h l : BitVec 4) (s : State), exec (.rowselReservedBoth h l) s = .refused .reservedRowCode)
  ∧ (∀ v : Byte, rowOf v = .reserved ↔
      (v.toNat % 16 = 0 ∧ 11 ≤ v.toNat / 16) ∨ (v.toNat % 16 ≠ 0 ∧ v.toNat / 16 ≠ 0))
  ∧ ∀ s : State, noResetFirst s → rowOf s.rowsel = .reserved → step s = .refused .reservedRowCode

/-- R129: under the invariants the port never holds a reserved code and at most one row is powered. -/
def Obligations.AtMostOneRowPowered : Prop :=
  ∀ s : State, Invariants s → rowOf s.rowsel ≠ .reserved ∧ (poweredRows s).length ≤ 1

/-- R128: while the block runs, the latch pulse and every byte in flight fall where the port is 0. -/
def Obligations.BurstFallsInsideBlank : Prop :=
  ∀ s : State, Invariants s → s.halted = false → (s.latch = true ∨ s.serBusy = true) →
    s.rowsel = 0x00#8 ∧ ∀ r c, lit s r c = some false

/-! ## Frame Renderer -/

/-- R140 and R141: SETTLE delays once and advances row, then field, then to ATICK. -/
def Obligations.SettleAdvancesCounters : Prop :=
  ∀ s : State, s.halted = false → s.uop = 12#4 → s.row.toNat ≤ 24 →
    exec .settle s = .next
      (if s.row.toNat < 24 then { s with uop := 0#4, row := s.row + 1#5, trace := .delay :: s.trace }
       else if s.field.toNat < 3 then
         { s with uop := 0#4, field := s.field + 1#2, row := 0#5, trace := .delay :: s.trace }
       else { s with uop := 13#4, field := 0#2, row := 0#5, trace := .delay :: s.trace })

/-- R138: RSTEP f, r: the nine events and the state after. Its bytes complete, as R116 assumes; where one does
not is in FrameIsAtickThenScan. -/
def Obligations.RstepShowsRow : Prop :=
  ∀ (f : BitVec 2) (r : BitVec 5) (s : State), s.halted = false → s.serBusy = false → s.completes 4 = true →
    r.toNat ≤ 24 → s.uop = 0#4 → s.field = f → s.row = r →
    exec (.rstep f r) s = .next
      { s with rowsel := rowCode r.toNat, latch := false, sdr := byteOf 3 (currentWord s),
               shift := currentWord s, colout := currentWord s, serialLeft := leftAfter 4 s,
               uop := (advance f r).1, field := (advance f r).2.1, row := (advance f r).2.2,
               trace := stepEvents (currentWord s) r.toNat ++ s.trace }

/-- R24: over the four fields a cell with bits d and b is shown d + 3b times. -/
def Obligations.DutyCountIsDimPlusThreeBright : Prop :=
  ∀ (s : State) (r c : Nat),
    ((List.range 4).filter (fun f => (s.rowWord (BitVec.ofNat 2 f) r).getLsbD c)).length
      = ((bufRead s.dim r).getLsbD c).toNat + 3 * ((bufRead s.bright r).getLsbD c).toNat

/-- R142: RFRAME visits 4 fields of 25 rows, leaves row 24 selected and the buffers as they were. Its bytes
complete, as R116 assumes; where one does not is in FrameIsAtickThenScan. -/
def Obligations.RframeScansEveryRow : Prop :=
  ∀ s : State, s.halted = false → s.serBusy = false → s.completes 400 = true →
    s.uop = 0#4 → s.field = 0#2 → s.row = 0#5 →
    exec .rframe s = .next
      { s with rowsel := 0xA0#8, latch := false, sdr := (bufRead s.bright 24).extractLsb' 0 8,
               shift := bufRead s.bright 24, colout := bufRead s.bright 24, serialLeft := leftAfter 400 s,
               uop := 13#4, field := 0#2, row := 0#5, trace := scanEvents s ++ s.trace }

/-- R143: the counts of one scan's events, each row selected exactly four times. -/
def Obligations.ScanEventCounts : Prop :=
  ∀ s : State, (scanEvents s).length = 900
    ∧ ((scanEvents s).filter (fun e => e matches .byte _)).length = 400
    ∧ ((scanEvents s).filter (fun e => e == .latch true)).length = 100
    ∧ ((scanEvents s).filter (fun e => e == .latch false)).length = 100
    ∧ ((scanEvents s).filter (fun e => e == .delay)).length = 100
    ∧ ((scanEvents s).filter (fun e => e == .sel 0x00#8)).length = 100
    ∧ ∀ r, r ≤ 24 → ((scanEvents s).filter (fun e => e == .sel (rowCode r))).length = 4

/-! ## Animation Engine -/

/-- R155 to R157: ATICK is the selected generator once, then the count, the switch at the budget, and
SEQ at (BLANK, 0, 0). -/
def Obligations.AtickRunsGeneratorThenCounts : Prop :=
  ∀ s : State, s.halted = false → s.uop = 13#4 → s.field = 0#2 → s.row = 0#5 → counterReady s →
    exec .atick s = andThen (exec (if s.gen = .ball then .ball else .noise) s) (fun t => .next
      (if s.frameCtr.toNat + 1 < (if s.gen = .ball then 5000 else 1000)
       then { t with frameCtr := BitVec.ofNat 16 (s.frameCtr.toNat + 1), uop := 0#4, field := 0#2, row := 0#5 }
       else { t with gen := (if s.gen = .ball then .noise else .ball), frameCtr := 0#16,
                     uop := 0#4, field := 0#2, row := 0#5 }))

/-- R155, R158 and R252 (11): from every reachable setting of the record ATICK completes and touches no
output; a Noise call leaves the ball alone, and after a Ball call its block shows the glyph. -/
def Obligations.AtickCompletesKeepingOutputs : Prop :=
  ∀ s : State, s.halted = false → s.uop = 13#4 → s.field = 0#2 → s.row = 0#5 → counterReady s → ballReady s →
    NextWith (exec .atick s) (fun t => OutputsKept s t ∧ t.uop = 0#4 ∧ t.field = 0#2 ∧ t.row = 0#5
      ∧ counterReady t ∧ ballReady t ∧ (s.gen = .noise → t.ballX = s.ballX ∧ t.ballY = s.ballY
        ∧ t.ballDx = s.ballDx ∧ t.ballDy = s.ballDy ∧ t.ballPace = s.ballPace)
      ∧ (s.gen = .ball → ∀ (p : Plane) (r : Nat), inBlock t r → t.word p r &&& glyphAt t p r = glyphAt t p r))

/-- R159: the generator schedule, in closed form, over any number of calls from a fresh Ball run. -/
def Obligations.GeneratorScheduleClosedForm : Prop :=
  ∀ (n : Nat) (s : State), s.halted = false → s.gen = .ball → s.frameCtr = 0#16 → ballReady s →
    NextWith (repeatInstr .atick n s) (fun t =>
      if n % 6000 < 5000 then t.gen = .ball ∧ t.frameCtr.toNat = n % 6000
      else t.gen = .noise ∧ t.frameCtr.toNat = n % 6000 - 5000)

/-! ## Ball generator -/

/-- R172: ERASE clears bits x..x+3 at rows y..y+3 in both planes and nothing else. -/
def Obligations.EraseClearsBlock : Prop :=
  ∀ s : State, s.halted = false → s.ballX.toNat ≤ 21 → s.ballY.toNat ≤ 21 →
    NextWith (exec .erase s) (fun t => OnlyBuffers s t ∧ ∀ (p : Plane) (r : Nat),
      (inBlock s r → t.word p r = s.word p r &&& ~~~ blockMask s) ∧ (¬ inBlock s r → t.word p r = s.word p r))

/-- R178: DRAW sets the glyph's bits at the position in both planes and nothing else. -/
def Obligations.DrawSetsGlyph : Prop :=
  ∀ s : State, s.halted = false → s.ballX.toNat ≤ 21 → s.ballY.toNat ≤ 21 →
    NextWith (exec .draw s) (fun t => OnlyBuffers s t ∧ ∀ (p : Plane) (r : Nat),
      (inBlock s r → t.word p r = s.word p r ||| glyphAt s p r) ∧ (¬ inBlock s r → t.word p r = s.word p r))

/-- R173 and R174: at a boundary the sign is reversed and the magnitude is 1 or 2, per axis; elsewhere the
velocity stays. The draws are all BOUNCE changes besides. -/
def Obligations.BounceReversesAtBoundary : Prop :=
  ∀ s : State, s.halted = false → ballOk s = true →
    NextWith (exec .bounce s) (fun t =>
      t = { s with ballDx := t.ballDx, ballDy := t.ballDy, draws := t.draws, freeCount := t.freeCount }
      ∧ (if s.ballX.toNat = 0 ∨ s.ballX.toNat = 21
         then (∃ m : Int, (m = 1 ∨ m = 2) ∧ t.ballDx.toInt = (if s.ballDx.toInt < 0 then m else -m))
         else t.ballDx = s.ballDx)
      ∧ (if s.ballY.toNat = 0 ∨ s.ballY.toNat = 21
         then (∃ m : Int, (m = 1 ∨ m = 2) ∧ t.ballDy.toInt = (if s.ballDy.toInt < 0 then m else -m))
         else t.ballDy = s.ballDy))

/-- R173 with R231: supplied draws are taken as the magnitudes, the horizontal one first, and only at a
boundary. -/
def Obligations.BounceTakesSuppliedDraws : Prop :=
  ∀ (s : State) (m n : Nat) (rest : List Nat), s.halted = false → ballOk s = true →
    s.draws = m :: n :: rest → (m = 1 ∨ m = 2) → (n = 1 ∨ n = 2) →
    NextWith (exec .bounce s) (fun t =>
      let atX := s.ballX.toNat = 0 ∨ s.ballX.toNat = 21
      let atY := s.ballY.toNat = 0 ∨ s.ballY.toNat = 21
      (atX → t.ballDx.toInt.natAbs = m) ∧ (atX → atY → t.ballDy.toInt.natAbs = n ∧ t.draws = rest)
      ∧ (atX → ¬ atY → t.draws = n :: rest) ∧ (¬ atX → atY → t.ballDy.toInt.natAbs = m ∧ t.draws = n :: rest)
      ∧ (¬ atX → ¬ atY → t.draws = s.draws))

/-- R176: MOVE adds as integers and clamps each coordinate to 0..21. -/
def Obligations.MoveAddsAndClamps : Prop :=
  ∀ s : State, s.halted = false → ballOk s = true →
    NextWith (exec .move s) (fun t => t = { s with ballX := t.ballX, ballY := t.ballY }
      ∧ (t.ballX.toNat : Int) = max 0 (min 21 (s.ballX.toNat + s.ballDx.toInt))
      ∧ (t.ballY.toNat : Int) = max 0 (min 21 (s.ballY.toNat + s.ballDy.toInt)))

/-- R171 and R180: a call that does not advance counts, takes no draw, and leaves the block exactly the
glyph, whatever it held. -/
def Obligations.BallCallWithoutAdvance : Prop :=
  ∀ s : State, s.halted = false → s.ballX.toNat ≤ 21 → s.ballY.toNat ≤ 21 → s.ballPace.toNat < 9 →
    NextWith (exec .ball s) (fun t =>
      t = { s with dim := t.dim, bright := t.bright, ballPace := s.ballPace + 1#4 }
      ∧ ∀ (p : Plane) (r : Nat),
        (inBlock s r → t.word p r = (s.word p r &&& ~~~ blockMask s) ||| glyphAt s p r)
        ∧ (¬ inBlock s r → t.word p r = s.word p r))

/-- R171: ERASE, the count, on the tenth call BOUNCE and MOVE with the pace counter cleared, and DRAW. -/
def Obligations.BallCallRunsStepsInOrder : Prop :=
  ∀ s : State, s.halted = false → ballOk s = true →
    (s.ballPace.toNat < 9 → exec .ball s = andThen (exec .erase s) (fun t =>
      exec .draw { t with ballPace := s.ballPace + 1#4 }))
    ∧ (s.ballPace = 9#4 → exec .ball s = andThen (exec .erase s) (fun t =>
        andThen (exec .bounce { t with ballPace := 0#4 }) (fun u => andThen (exec .move u) (exec .draw)))
      ∧ NextWith (exec .ball s) (fun t => t.ballPace = 0#4 ∧ ballOk t = true ∧ OutputsKept s t))

/-! ## Noise generator -/

/-- R191: NOISE toggles exactly one bit of each plane, whatever is drawn: four draws are taken, and the first
two, each mod 25, are Dim's row and column, the last two Bright's. R191 calls this order of the draws the
spec's own choice; where a draw comes from is the model's (notes/assumptions/4). -/
def Obligations.NoiseTogglesOneBitPerPlane : Prop :=
  ∀ s : State, s.halted = false →
    NextWith (exec .noise s) (fun t =>
      let s2 := s.afterDraw.afterDraw
      t = { s2.afterDraw.afterDraw with dim := t.dim, bright := t.bright }
      ∧ (∀ r, bufRead t.dim r = if r = s.drawn % 25
          then bufRead s.dim r ^^^ (1#32 <<< (s.afterDraw.drawn % 25)) else bufRead s.dim r)
      ∧ (∀ r, bufRead t.bright r = if r = s2.drawn % 25
          then bufRead s.bright r ^^^ (1#32 <<< (s2.afterDraw.drawn % 25)) else bufRead s.bright r))

/-- R191 with R231: supplied draws are Dim row, Dim column, Bright row, Bright column, each mod 25. R191 calls
this order of the draws the spec's own choice, and the supplied list is the model's (notes/assumptions/4). -/
def Obligations.NoiseTakesSuppliedDraws : Prop :=
  ∀ (s : State) (r1 c1 r2 c2 : Nat) (rest : List Nat), s.halted = false → s.draws = r1 :: c1 :: r2 :: c2 :: rest →
    NextWith (exec .noise s) (fun t => t = { s with dim := t.dim, bright := t.bright, draws := rest }
      ∧ (∀ r, bufRead t.dim r
          = if r = r1 % 25 then bufRead s.dim r ^^^ (1#32 <<< (c1 % 25)) else bufRead s.dim r)
      ∧ (∀ r, bufRead t.bright r
          = if r = r2 % 25 then bufRead s.bright r ^^^ (1#32 <<< (c2 % 25)) else bufRead s.bright r))

/-- R192: two NOISE calls whose draws are equal leave both buffers as they were. -/
def Obligations.NoiseTwiceRestoresBuffers : Prop :=
  ∀ (s : State) (r1 c1 r2 c2 : Nat) (rest : List Nat), s.halted = false → memWf s = true →
    s.draws = r1 :: c1 :: r2 :: c2 :: r1 :: c1 :: r2 :: c2 :: rest →
    NextWith (andThen (exec .noise s) (exec .noise)) (fun t => t = { s with draws := rest })

/-! ## Register codes -/

/-- R91 and R92 with the model's choice of notes/assumptions/10: a generator code loads GEN with a fresh
count, a velocity code loads one axis's velocity. -/
def Obligations.RegisterCodesLoadTheirRegister : Prop :=
  ∀ s : State, s.halted = false →
    (exec .genBall s = .next { s with gen := .ball, frameCtr := 0#16 }
      ∧ exec .genNoise s = .next { s with gen := .noise, frameCtr := 0#16 })
    ∧ (exec (.velM2 .x) s = .next { s with ballDx := 6#3 } ∧ exec (.velM2 .y) s = .next { s with ballDy := 6#3 })
    ∧ (exec (.velM1 .x) s = .next { s with ballDx := 7#3 } ∧ exec (.velM1 .y) s = .next { s with ballDy := 7#3 })
    ∧ (exec (.velP1 .x) s = .next { s with ballDx := 1#3 } ∧ exec (.velP1 .y) s = .next { s with ballDy := 1#3 })
    ∧ (exec (.velP2 .x) s = .next { s with ballDx := 2#3 } ∧ exec (.velP2 .y) s = .next { s with ballDy := 2#3 })
    ∧ (6#3).toInt = -2 ∧ (7#3).toInt = -1 ∧ (1#3).toInt = 1 ∧ (2#3).toInt = 2

/-! ## Main loop -/

/-- R200: FRAME is ATICK and then RFRAME; it completes at (ATICK, 0, 0) with 900 events more if its 400 bytes
complete (R116). At the byte that never completes a frame, a scan and a row step wait for good in that byte's
WAITk with every row off (R111, R227, in the form of notes/assumptions/28). -/
def Obligations.FrameIsAtickThenScan : Prop :=
  (∀ s : State, s.halted = false → s.serBusy = false → s.uop = 13#4 → s.field = 0#2 → s.row = 0#5 →
    counterReady s → ballReady s →
    exec .frame s = andThen (exec .atick s) (exec .rframe)
    ∧ (s.completes 400 = true → NextWith (exec .frame s) (fun t => t.uop = 13#4 ∧ t.field = 0#2 ∧ t.row = 0#5
      ∧ t.rowsel = 0xA0#8 ∧ t.serBusy = false ∧ t.halted = false ∧ t.colout = bufRead t.bright 24
      ∧ t.trace.length = s.trace.length + 900 ∧ counterReady t ∧ ballReady t))
    ∧ ∀ n, n < 400 → s.serialLeft = some n → NextWith (exec .frame s) (HeldScan n s))
  ∧ (∀ (n : Nat) (s : State), s.halted = false → s.serBusy = false → s.uop = 0#4 → s.field = 0#2 → s.row = 0#5 →
      n < 400 → s.serialLeft = some n →
      NextWith (exec .rframe s) (fun t => HeldScan n s t ∧ AnimationKept s t ∧ t.pressCnt = s.pressCnt))
  ∧ ∀ (n : Nat) (f : BitVec 2) (r : BitVec 5) (s : State), s.halted = false → s.serBusy = false → r.toNat ≤ 24 →
      s.uop = 0#4 → s.field = f → s.row = r → n < 4 → s.serialLeft = some n →
      exec (.rstep f r) s = .next (heldAtByte n (currentWord s)
        { s with rowsel := 0x00#8, uop := BitVec.ofNat 4 (2 * n + 2), trace := .sel 0x00#8 :: s.trace })

/-- R201 with the model's choice of notes/assumptions/18: RUN is the ATICK of its first FRAME, after which it
never returns to what was written after it; and the steps that follow do what FRAME does, to where RUN can
begin its next FRAME, when every byte completes (R116) and no edge falls. -/
def Obligations.RunIsFrameAndGoesOn : Prop :=
  ∀ s : State, s.halted = false → s.serBusy = false → s.uop = 13#4 → s.field = 0#2 → s.row = 0#5 →
    counterReady s → ballReady s →
    NextWith (exec .run s) (fun t => exec .atick s = .next { t with written := s.written } ∧ t.written = []
      ∧ t.halted = false ∧ t.serBusy = false ∧ t.uop = 0#4 ∧ t.field = 0#2 ∧ t.row = 0#5
      ∧ counterReady t ∧ ballReady t
      ∧ (s.edges = [] → s.serialLeft = none → s.caller ≠ .handler → stateDefect s = none →
          NextWith (steps 1700 t) (fun u => exec .frame s = .next { u with written := s.written } ∧ u.written = []
            ∧ u.halted = false ∧ u.serBusy = false ∧ u.uop = 13#4 ∧ u.field = 0#2 ∧ u.row = 0#5
            ∧ counterReady u ∧ ballReady u ∧ stateDefect u = none)))

/-! ## Environment steps -/

/-- R226: SERSHIFT moves SDR into the low end of SHIFT and clears SER_BUSY. PWRDOWN begins with it when a byte is
in flight (R215), and where none comes the power-down waits for good with HALTED = 0: at that byte, or at the
one of its own that never completes, with ROWSEL = 0 (R227, in the form of notes/assumptions/28). -/
def Obligations.SershiftCompletesByte : Prop :=
  (∀ s : State, s.halted = false → s.serBusy = true → s.frozen = false →
    exec .sershift s = .next { s with shift := (s.shift <<< 8) ||| s.sdr.setWidth 32, serBusy := false,
                                      serialLeft := leftAfter 1 s })
  ∧ (∀ s : State, s.halted = false → s.serBusy = true →
      exec .pwrdown s = if s.frozen then .next { s with caller := .handler }
        else andThen (exec .sershift s) (exec .pwrdown))
  ∧ ∀ (k : Nat) (s : State), s.halted = false → s.serBusy = false → k < 16 → s.serialLeft = some k →
      exec .pwrdown s = .next
        { s with rowsel := 0x00#8, sdr := 0x00#8, serBusy := true, shift := s.shift <<< (8 * k),
                 serialLeft := some 0, caller := .handler,
                 trace := List.replicate (k + 1) (.byte 0x00#8) ++ .sel 0x00#8 :: s.trace }

/-- R213 and R214: an edge is counted and changes nothing else, but at the threshold it runs PWRDOWN; the
handler is not waiting for a byte (R219). -/
def Obligations.BtnedgeCountsOrPowersDown : Prop :=
  ∀ s : State, s.halted = false → s.caller ≠ .handler → s.pressCnt < s.cfg.pressEdgeThreshold →
    (s.pressCnt + 1 ≠ s.cfg.pressEdgeThreshold → exec .btnedge s = .next { s with pressCnt := s.pressCnt + 1 })
    ∧ (s.pressCnt + 1 = s.cfg.pressEdgeThreshold →
        exec .btnedge s = exec .pwrdown { s with pressCnt := s.pressCnt + 1 }
        ∧ (s.completes (powerDownBytes s) = true →
            exec .btnedge s = .next (afterPowerDown { s with pressCnt := s.pressCnt + 1 })))

/-- R215: the state after PWRDOWN and its events, with or without a byte in flight. Its bytes complete, as R116
assumes; where one does not is in SershiftCompletesByte. R215 has PWRDOWN entered only from an edge at the
threshold; that one performed on its own at any other PRESS_CNT has the same effect is the model's choice
(notes/assumptions/32). -/
def Obligations.PwrdownBlanksAndHalts : Prop :=
  ∀ s : State, s.halted = false → s.completes (powerDownBytes s) = true →
    exec .pwrdown s = .next (afterPowerDown s)

/-- R240: RESET puts every register at its value of R46 from any state, the halted one too. -/
def Obligations.ResetSetsStatedValues : Prop :=
  ∀ s : State, NextWith (exec .reset s) (fun t =>
    (∀ r, bufRead t.dim r = 0#32 ∧ bufRead t.bright r = 0#32) ∧ t.gen = .ball ∧ t.frameCtr = 0#16
    ∧ t.ballPace = 0#4 ∧ t.ballX = s.cfg.ballX0 ∧ t.ballY = s.cfg.ballY0 ∧ t.ballDx = s.cfg.ballDx0
    ∧ t.ballDy = s.cfg.ballDy0 ∧ t.uop = 13#4 ∧ t.field = 0#2 ∧ t.row = 0#5 ∧ t.serBusy = false
    ∧ t.halted = false ∧ t.rowsel = 0x00#8 ∧ t.latch = false ∧ t.pressCnt = 0 ∧ t.cfg = s.cfg)

/-- R46: the values the rule gives, in the state after reset. -/
def Obligations.ResetStateHoldsStatedValues : Prop :=
  (∀ r, bufRead State.reset.dim r = 0#32 ∧ bufRead State.reset.bright r = 0#32)
  ∧ State.reset.gen = .ball ∧ State.reset.frameCtr = 0#16 ∧ State.reset.ballPace = 0#4
  ∧ State.reset.uop = 13#4 ∧ State.reset.field = 0#2 ∧ State.reset.row = 0#5 ∧ State.reset.serBusy = false
  ∧ State.reset.halted = false ∧ State.reset.rowsel = 0x00#8 ∧ State.reset.latch = false
  ∧ State.reset.pressCnt = 0 ∧ State.reset.ballX = State.reset.cfg.ballX0
  ∧ State.reset.ballY = State.reset.cfg.ballY0 ∧ State.reset.ballDx = State.reset.cfg.ballDx0
  ∧ State.reset.ballDy = State.reset.cfg.ballDy0 ∧ State.reset.cfg.ok = true

/-- R34: while HALTED = 1 nothing has a step: not the machine, and no instruction but RESET (the reserved
row codes are refused in every state, and a step from an unreachable value is refused first). -/
def Obligations.HaltedBlocksEveryInstruction : Prop :=
  ∀ s : State, s.halted = true →
    (∀ i : Instr, i ≠ .reset → isReserved i = false → exec i s = .fault .halted)
    ∧ (s.written = [] → stateDefect s = none → step s = .fault .halted)

/-! ## Ill-formed states and preconditions -/

/-- R95 and U4 with R211 and three choices of the model: a step from a state that holds an unreachable register
value is refused by name. That this comes in a halted state too and whatever is written, RESET excepted, is
notes/assumptions/16; that reservedRowCode comes first where ROWSEL holds a reserved code as well is
notes/assumptions/30; and the exceptions in the last two clauses of `unreachable` (SER_BUSY where somebody else
waits for the byte, PRESS_CNT where a power-down has begun) are notes/assumptions/28. -/
def Obligations.IllFormedStateRefused : Prop :=
  ∀ s : State, noResetFirst s → rowOf s.rowsel ≠ .reserved → unreachable s → step s = .refused .illFormedState

/-- R66: a row outside 0..24 is refused, by the reading micro-operations and by RSTEP. That RSTEP is refused so
where another precondition is false as well is the model's choice (notes/assumptions/31). -/
def Obligations.RowOutOfRangeRefused : Prop :=
  (∀ (k : Nat) (s : State), k < 4 → s.halted = false → s.uop.toNat = 2 * k + 1 → s.serBusy = false →
    24 < s.row.toNat → exec (txOf k) s = .refused .indexOutOfRange)
  ∧ ∀ (f : BitVec 2) (r : BitVec 5) (s : State), s.halted = false → 24 < r.toNat →
    exec (.rstep f r) s = .refused .indexOutOfRange

/-- The model's choice of notes/assumptions/15: a micro-operation away from its own SEQ.UOP, a byte sent
while one is in flight, a second half of a pulse without the first, a SERSHIFT with nothing to shift or of a
primitive that completes nothing, and an edge while the power-down handler waits are refused by name. Which name
it is where another precondition is false as well is the model's choice of notes/assumptions/31. -/
def Obligations.FalsePreconditionsRefused : Prop :=
  ∀ s : State, s.halted = false →
    (∀ k, k < 4 → s.uop.toNat ≠ 2 * k + 1 → exec (txOf k) s = .refused .outOfSequence)
    ∧ (∀ k, k < 4 → s.uop.toNat = 2 * k + 1 → s.serBusy = true → exec (txOf k) s = .refused .serialBusy)
    ∧ (s.uop ≠ 9#4 → exec .latchset s = .refused .outOfSequence)
    ∧ (s.uop = 10#4 → s.latch = false → exec .latchclr s = .refused .latchNotSet)
    ∧ (∀ v, s.serBusy = true → exec (.sendbyte v) s = .refused .serialBusy)
    ∧ (s.serBusy = false ∨ s.frozen = true → exec .sershift s = .refused .notEnabled)
    ∧ (s.caller = .handler → exec .btnedge s = .refused .notEnabled)

/-! ## Whole-machine rules -/

/-- R252 with R34: every step keeps the invariants. -/
def Obligations.StepKeepsInvariants : Prop :=
  ∀ s t : State, Invariants s → step s = .next t → Invariants t

/-- The invariants hold at reset, for the sample parameters of notes/assumptions/1 and 6. -/
def Obligations.ResetMeetsInvariants : Prop := Invariants State.reset ∧ burstInv State.reset = true

/-- R42, R112, R249: every step keeps the burst invariant, so what LATCHSET commits is the row's word. -/
def Obligations.StepKeepsBurstInvariant : Prop :=
  ∀ s t : State, Invariants s → burstInv s = true → step s = .next t → burstInv t = true

/-- R144: wherever the burst invariant holds, the cells lit during SETTLE are those of the current row
whose bit in the field's plane is 1; with a power-down begun there, which waits for a byte, none is. A c above 24
is no column (U18), and what is said of it follows the model's form of Lit (notes/assumptions/33). -/
def Obligations.SettleLightsCurrentRow : Prop :=
  ∀ s : State, Invariants s → burstInv s = true → s.halted = false → s.uop = 12#4 → ∀ q c, q ≤ 24 →
    lit s q c = some (s.caller != .handler && decide (q = s.row.toNat) && (currentWord s).getLsbD c)

/-- R211: under the invariants no refusal is ever met; a running block always has a next state. Held by a byte
that never completes it is dark and nothing goes on but the time to the next edge, and, with the power-down
begun, not even that (R227, in the form of notes/assumptions/28). -/
def Obligations.RunningBlockAlwaysSteps : Prop :=
  ∀ s : State, Invariants s → s.halted = false →
    (∃ t, step s = .next t)
    ∧ (s.stuck = true → s.rowsel = 0x00#8
        ∧ (s.caller = .sequencer → ¬ edgeDue s → step s = .next { s with edges := nearer s.edges })
        ∧ (s.caller = .handler → step s = .next s))

/-- R70: no step of the scan, and no edge, at ATICK either, changes a buffer word; only ATICK's own step can. -/
def Obligations.ScanNeverChangesBuffers : Prop :=
  ∀ s t : State, s.written = [] → (s.uop ≠ 13#4 ∨ edgeDue s) → step s = .next t →
    t.dim = s.dim ∧ t.bright = s.bright

/-- R21, R61 and R216: no instruction outside the Animation Engine, RESET and the register codes writes
the buffers or the animation record, or takes a draw. -/
def Obligations.OnlyEngineWritesAnimation : Prop :=
  ∀ (i : Instr) (s t : State), writesAnimation i = false → exec i s = .next t → AnimationKept s t

/-- R155: the generators and their parts write no output, no flag and no event. -/
def Obligations.GeneratorsKeepOutputs : Prop :=
  ∀ (i : Instr) (s t : State), i ∈ [Instr.atick, .ball, .erase, .bounce, .move, .draw, .noise] →
    exec i s = .next t → OutputsKept s t

/-- R217 with R216: an edge below the threshold commutes with every micro-operation and with SERSHIFT. -/
def Obligations.EdgeCommutesWithMicroOperations : Prop :=
  ∀ (i : Instr) (s : State), i ∈ uops ++ [.sershift] → s.caller ≠ .handler →
    s.pressCnt + 1 < s.cfg.pressEdgeThreshold →
    andThen (exec i s) (exec .btnedge) = andThen (exec .btnedge s) (exec i)

/-- R45: no instruction changes the machine's parameters. -/
def Obligations.ParametersNeverChange : Prop :=
  ∀ (i : Instr) (s t : State), exec i s = .next t → t.cfg = s.cfg

/-! ## The step and the encoding -/

/-- R202, with the model's form of notes/assumptions/7, 16, 26 and 28: a written RESET is taken from any state. Else,
from a running state with no unreachable value: the step of another agent is performed as it stands; an
operation of the thread of control is performed at its own entry, a WAITk held by a transfer after the SERSHIFT
that lifts it; held at a byte that never completes, the thread does not go on; an unreachable value at the
entry, or bytes that do not decode, are refused. -/
def Obligations.StepRunsWrittenInstruction : Prop :=
  ∀ (c : Cmd) (rest : List Cmd) (s : State), s.written = c :: rest →
    (decodeCmd c = .ok .reset → step s = exec .reset { s with written := rest })
    ∧ (s.halted = false → stateDefect s = none → s.caller ≠ .handler →
      (∀ e, decodeCmd c = .error e → step s = .refused (refusalOf e))
      ∧ ∀ i, decodeCmd c = .ok i →
        (isEnv i = true → step s = exec i { s with written := rest })
        ∧ (isEnv i = false → s.stuck = false → holds i s = false →
            (stateDefect (State.entry i { s with written := rest }) = none →
              step s = exec i (State.entry i { s with written := rest }))
            ∧ ∀ r, stateDefect (State.entry i { s with written := rest }) = some r → step s = .refused r)
        ∧ (isEnv i = false → s.stuck = false → holds i s = true → stateDefect (s.entry i) = none →
            step s = exec .sershift (s.entry i))
        ∧ (isEnv i = false → s.stuck = true → ¬ edgeDue s → step s = .next { s with edges := nearer s.edges }))

/-- R202, R203 and R227: with nothing written, an edge that is due comes first, then SERSHIFT when SER_BUSY = 1,
else the micro-operation whose code is SEQ.UOP; a later edge comes one step nearer. Where the byte in flight
never completes nothing goes on but the time to the next edge. The count of a frozen primitive and the list of
delays are the model's form (notes/assumptions/28 and 12). -/
def Obligations.StepChoosesAgent : Prop :=
  ∀ s : State, s.written = [] → s.halted = false → stateDefect s = none → s.caller ≠ .handler →
    (∀ rest, s.edges = 0 :: rest → step s = exec .btnedge { s with edges := rest })
    ∧ (¬ edgeDue s → s.serBusy = true → s.frozen = true → step s = .next { s with edges := nearer s.edges })
    ∧ (¬ edgeDue s → s.serBusy = true → s.frozen = false →
        step s = exec .sershift { s with edges := nearer s.edges })
    ∧ (¬ edgeDue s → s.serBusy = false → ∀ i, uops[s.uop.toNat]? = some i →
        step s = exec i { s with edges := nearer s.edges })
    ∧ nearer [] = [] ∧ ∀ d rest, nearer ((d + 1) :: rest) = d :: rest

/-- R81 to R98: decoding an encoded well-formed instruction gives it back, with every operand. -/
def Obligations.DecodeOfEncodeIsIdentity : Prop :=
  ∀ (i : Instr) (rest : List Byte), i.wellFormed = true →
    decode (encode i).fmt ((encode i).bytes ++ rest) = .ok (i, rest)

/-- R80 to R98: what decodes is well-formed, and encodes to the bytes it was read from: no two byte
strings of a format stand for one instruction. -/
def Obligations.EncodeOfDecodeIsIdentity : Prop :=
  ∀ (fmt : Format) (bytes : List Byte) (i : Instr) (rest : List Byte), decode fmt bytes = .ok (i, rest) →
    i.wellFormed = true ∧ (encode i).fmt = fmt ∧ (encode i).bytes ++ rest = bytes

/-- R93, R87, R81, R82, R91 with two choices of the model: words written out from the tables decode to what
they stand for, and an OPID that R93 does not list is refused. The axis byte after the velocity code is the
model's own operand (notes/assumptions/10), and so is which format an unmarked table word is read in
(notes/assumptions/23). -/
def Obligations.TableWordsDecode : Prop :=
  decodeTableWord 8 0x00 = some .blank ∧ decodeTableWord 8 0x0D = some .atick
  ∧ decodeTableWord 8 0x1D = some .noise ∧ decodeTableWord 8 0x22 = some .pwrdown
  ∧ decodeTableWord 8 0xA0 = some .rowselRow24
  ∧ decodeTableWord 32 0x01FFFFFF = some (.rowword 0x1FFFFFF#25)
  ∧ decodeTableWord 32 0xFF000001 = some (.rowburst 0xFF#8 0x00#8 0x00#8 0x01#8)
  ∧ decodeCmd { fmt := .vel, bytes := [0x06#8, 0x01#8] } = .ok (.velM2 .y)
  ∧ decodeCmd { fmt := .opid, bytes := [0x0E#8] } = .error .unknownOpid
end

