-- ==== Sys2Proof/Laws/Bits.lean ====
section
/-! SUPPORT. Bit-level facts of the serial link: what the chain holds as bytes enter it, and that a word is
its four bytes put together (spec/10_state.md R42, spec/30_encoding.md R82). -/

namespace Sys2Proof.Machine

/-- The value of {w[23:0], v}. -/
theorem toNat_pushByte (w : Word) (v : Byte) :
    (show Word from w.extractLsb' 0 24 ++ v).toNat = w.toNat % 2 ^ 24 * 256 + v.toNat := by
  have h := BitVec.toNat_append (w.extractLsb' 0 24) v
  have hv := v.isLt
  simp only [BitVec.extractLsb'_toNat, Nat.shiftRight_zero] at h
  rw [Nat.shiftLeft_eq, Nat.mul_comm, ← Nat.two_pow_add_eq_or_of_lt hv] at h
  exact h.trans (by omega)

theorem toNat_byteOf (k : Nat) (w : Word) :
    (byteOf k w).toNat = w.toNat / 2 ^ (24 - 8 * k) % 256 := by
  simp [byteOf, Nat.shiftRight_eq_div_pow]

/-- {w[23:0], v} by shifting. -/
theorem pushByte_eq_shift (w : Word) (v : Byte) :
    (show Word from w.extractLsb' 0 24 ++ v) = (w <<< 8) ||| v.setWidth 32 := by
  apply BitVec.eq_of_toNat_eq
  rw [toNat_pushByte]
  have hv := v.isLt
  have hw := w.isLt
  have e1 : v.toNat % 2 ^ 32 = v.toNat := Nat.mod_eq_of_lt (by omega)
  have e2 : w.toNat <<< 8 % 2 ^ 32 = 2 ^ 8 * (w.toNat % 2 ^ 24) := by rw [Nat.shiftLeft_eq]; omega
  rw [BitVec.toNat_or, BitVec.toNat_shiftLeft, BitVec.toNat_setWidth, e1, e2,
    ← Nat.two_pow_add_eq_or_of_lt hv]
  omega

/-- The value of four bytes put together, the first at the top. -/
theorem toNat_fourBytes (b0 b1 b2 b3 : Byte) :
    (show Word from b0 ++ b1 ++ b2 ++ b3).toNat
      = b0.toNat * 2 ^ 24 + b1.toNat * 2 ^ 16 + b2.toNat * 2 ^ 8 + b3.toNat := by
  have h1 := BitVec.toNat_append b0 b1
  have h2 := BitVec.toNat_append (b0 ++ b1) b2
  have h3 := BitVec.toNat_append (b0 ++ b1 ++ b2) b3
  rw [Nat.shiftLeft_eq, Nat.mul_comm, ← Nat.two_pow_add_eq_or_of_lt b1.isLt] at h1
  rw [Nat.shiftLeft_eq, Nat.mul_comm, ← Nat.two_pow_add_eq_or_of_lt b2.isLt] at h2
  rw [Nat.shiftLeft_eq, Nat.mul_comm, ← Nat.two_pow_add_eq_or_of_lt b3.isLt] at h3
  exact h3.trans (by omega)

/-- Four bytes pushed into any chain are the word they make (R42). -/
theorem pushFourBytes (w : Word) (b0 b1 b2 b3 : Byte) :
    (show Word from (show Word from (show Word from (show Word from
      w.extractLsb' 0 24 ++ b0).extractLsb' 0 24 ++ b1).extractLsb' 0 24 ++ b2).extractLsb' 0 24 ++ b3)
      = b0 ++ b1 ++ b2 ++ b3 := by
  apply BitVec.eq_of_toNat_eq
  rw [toNat_pushByte, toNat_pushByte, toNat_pushByte, toNat_pushByte, toNat_fourBytes]
  have := b0.isLt; have := b1.isLt; have := b2.isLt; have := b3.isLt
  omega

/-- A word is its four bytes put together (R82). -/
theorem bytes_of_word (w : Word) :
    (show Word from byteOf 0 w ++ byteOf 1 w ++ byteOf 2 w ++ byteOf 3 w) = w := by
  apply BitVec.eq_of_toNat_eq
  rw [toNat_fourBytes, toNat_byteOf, toNat_byteOf, toNat_byteOf, toNat_byteOf]
  have := w.isLt
  omega

end Sys2Proof.Machine
end

