-- ==== Sys2Proof/Laws/State.lean ====
section
/-! SUPPORT. What each update of the state leaves in each field, one lemma per field, so that no proof
unfolds a record update. -/

namespace Sys2Proof.Machine

/-! `emit` -/

@[simp] theorem State.emit_dim (e : Event) (s : State) : (s.emit e).dim = s.dim := rfl
@[simp] theorem State.emit_bright (e : Event) (s : State) : (s.emit e).bright = s.bright := rfl
@[simp] theorem State.emit_gen (e : Event) (s : State) : (s.emit e).gen = s.gen := rfl
@[simp] theorem State.emit_frameCtr (e : Event) (s : State) : (s.emit e).frameCtr = s.frameCtr := rfl
@[simp] theorem State.emit_ballPace (e : Event) (s : State) : (s.emit e).ballPace = s.ballPace := rfl
@[simp] theorem State.emit_ballX (e : Event) (s : State) : (s.emit e).ballX = s.ballX := rfl
@[simp] theorem State.emit_ballY (e : Event) (s : State) : (s.emit e).ballY = s.ballY := rfl
@[simp] theorem State.emit_ballDx (e : Event) (s : State) : (s.emit e).ballDx = s.ballDx := rfl
@[simp] theorem State.emit_ballDy (e : Event) (s : State) : (s.emit e).ballDy = s.ballDy := rfl
@[simp] theorem State.emit_uop (e : Event) (s : State) : (s.emit e).uop = s.uop := rfl
@[simp] theorem State.emit_field (e : Event) (s : State) : (s.emit e).field = s.field := rfl
@[simp] theorem State.emit_row (e : Event) (s : State) : (s.emit e).row = s.row := rfl
@[simp] theorem State.emit_serBusy (e : Event) (s : State) : (s.emit e).serBusy = s.serBusy := rfl
@[simp] theorem State.emit_halted (e : Event) (s : State) : (s.emit e).halted = s.halted := rfl
@[simp] theorem State.emit_rowsel (e : Event) (s : State) : (s.emit e).rowsel = s.rowsel := rfl
@[simp] theorem State.emit_latch (e : Event) (s : State) : (s.emit e).latch = s.latch := rfl
@[simp] theorem State.emit_sdr (e : Event) (s : State) : (s.emit e).sdr = s.sdr := rfl
@[simp] theorem State.emit_pressCnt (e : Event) (s : State) : (s.emit e).pressCnt = s.pressCnt := rfl
@[simp] theorem State.emit_shift (e : Event) (s : State) : (s.emit e).shift = s.shift := rfl
@[simp] theorem State.emit_colout (e : Event) (s : State) : (s.emit e).colout = s.colout := rfl
@[simp] theorem State.emit_cfg (e : Event) (s : State) : (s.emit e).cfg = s.cfg := rfl
@[simp] theorem State.emit_draws (e : Event) (s : State) : (s.emit e).draws = s.draws := rfl
@[simp] theorem State.emit_freeCount (e : Event) (s : State) : (s.emit e).freeCount = s.freeCount := rfl
@[simp] theorem State.emit_edges (e : Event) (s : State) : (s.emit e).edges = s.edges := rfl
@[simp] theorem State.emit_serialLeft (e : Event) (s : State) : (s.emit e).serialLeft = s.serialLeft := rfl
@[simp] theorem State.emit_caller (e : Event) (s : State) : (s.emit e).caller = s.caller := rfl
@[simp] theorem State.emit_written (e : Event) (s : State) : (s.emit e).written = s.written := rfl
@[simp] theorem State.emit_trace (e : Event) (s : State) : (s.emit e).trace = e :: s.trace := rfl

/-! `raiseBusy` -/

@[simp] theorem State.raiseBusy_dim (s : State) : (s.raiseBusy).dim = s.dim := rfl
@[simp] theorem State.raiseBusy_bright (s : State) : (s.raiseBusy).bright = s.bright := rfl
@[simp] theorem State.raiseBusy_gen (s : State) : (s.raiseBusy).gen = s.gen := rfl
@[simp] theorem State.raiseBusy_frameCtr (s : State) : (s.raiseBusy).frameCtr = s.frameCtr := rfl
@[simp] theorem State.raiseBusy_ballPace (s : State) : (s.raiseBusy).ballPace = s.ballPace := rfl
@[simp] theorem State.raiseBusy_ballX (s : State) : (s.raiseBusy).ballX = s.ballX := rfl
@[simp] theorem State.raiseBusy_ballY (s : State) : (s.raiseBusy).ballY = s.ballY := rfl
@[simp] theorem State.raiseBusy_ballDx (s : State) : (s.raiseBusy).ballDx = s.ballDx := rfl
@[simp] theorem State.raiseBusy_ballDy (s : State) : (s.raiseBusy).ballDy = s.ballDy := rfl
@[simp] theorem State.raiseBusy_uop (s : State) : (s.raiseBusy).uop = s.uop := rfl
@[simp] theorem State.raiseBusy_field (s : State) : (s.raiseBusy).field = s.field := rfl
@[simp] theorem State.raiseBusy_row (s : State) : (s.raiseBusy).row = s.row := rfl
@[simp] theorem State.raiseBusy_serBusy (s : State) : (s.raiseBusy).serBusy = true := rfl
@[simp] theorem State.raiseBusy_halted (s : State) : (s.raiseBusy).halted = s.halted := rfl
@[simp] theorem State.raiseBusy_rowsel (s : State) : (s.raiseBusy).rowsel = s.rowsel := rfl
@[simp] theorem State.raiseBusy_latch (s : State) : (s.raiseBusy).latch = s.latch := rfl
@[simp] theorem State.raiseBusy_sdr (s : State) : (s.raiseBusy).sdr = s.sdr := rfl
@[simp] theorem State.raiseBusy_pressCnt (s : State) : (s.raiseBusy).pressCnt = s.pressCnt := rfl
@[simp] theorem State.raiseBusy_shift (s : State) : (s.raiseBusy).shift = s.shift := rfl
@[simp] theorem State.raiseBusy_colout (s : State) : (s.raiseBusy).colout = s.colout := rfl
@[simp] theorem State.raiseBusy_cfg (s : State) : (s.raiseBusy).cfg = s.cfg := rfl
@[simp] theorem State.raiseBusy_draws (s : State) : (s.raiseBusy).draws = s.draws := rfl
@[simp] theorem State.raiseBusy_freeCount (s : State) : (s.raiseBusy).freeCount = s.freeCount := rfl
@[simp] theorem State.raiseBusy_edges (s : State) : (s.raiseBusy).edges = s.edges := rfl
@[simp] theorem State.raiseBusy_serialLeft (s : State) : (s.raiseBusy).serialLeft = s.serialLeft := rfl
@[simp] theorem State.raiseBusy_caller (s : State) : (s.raiseBusy).caller = s.caller := rfl
@[simp] theorem State.raiseBusy_written (s : State) : (s.raiseBusy).written = s.written := rfl
@[simp] theorem State.raiseBusy_trace (s : State) : (s.raiseBusy).trace = s.trace := rfl

/-! `clearBusy` -/

@[simp] theorem State.clearBusy_dim (s : State) : (s.clearBusy).dim = s.dim := rfl
@[simp] theorem State.clearBusy_bright (s : State) : (s.clearBusy).bright = s.bright := rfl
@[simp] theorem State.clearBusy_gen (s : State) : (s.clearBusy).gen = s.gen := rfl
@[simp] theorem State.clearBusy_frameCtr (s : State) : (s.clearBusy).frameCtr = s.frameCtr := rfl
@[simp] theorem State.clearBusy_ballPace (s : State) : (s.clearBusy).ballPace = s.ballPace := rfl
@[simp] theorem State.clearBusy_ballX (s : State) : (s.clearBusy).ballX = s.ballX := rfl
@[simp] theorem State.clearBusy_ballY (s : State) : (s.clearBusy).ballY = s.ballY := rfl
@[simp] theorem State.clearBusy_ballDx (s : State) : (s.clearBusy).ballDx = s.ballDx := rfl
@[simp] theorem State.clearBusy_ballDy (s : State) : (s.clearBusy).ballDy = s.ballDy := rfl
@[simp] theorem State.clearBusy_uop (s : State) : (s.clearBusy).uop = s.uop := rfl
@[simp] theorem State.clearBusy_field (s : State) : (s.clearBusy).field = s.field := rfl
@[simp] theorem State.clearBusy_row (s : State) : (s.clearBusy).row = s.row := rfl
@[simp] theorem State.clearBusy_serBusy (s : State) : (s.clearBusy).serBusy = false := rfl
@[simp] theorem State.clearBusy_halted (s : State) : (s.clearBusy).halted = s.halted := rfl
@[simp] theorem State.clearBusy_rowsel (s : State) : (s.clearBusy).rowsel = s.rowsel := rfl
@[simp] theorem State.clearBusy_latch (s : State) : (s.clearBusy).latch = s.latch := rfl
@[simp] theorem State.clearBusy_sdr (s : State) : (s.clearBusy).sdr = s.sdr := rfl
@[simp] theorem State.clearBusy_pressCnt (s : State) : (s.clearBusy).pressCnt = s.pressCnt := rfl
@[simp] theorem State.clearBusy_shift (s : State) : (s.clearBusy).shift = s.shift := rfl
@[simp] theorem State.clearBusy_colout (s : State) : (s.clearBusy).colout = s.colout := rfl
@[simp] theorem State.clearBusy_cfg (s : State) : (s.clearBusy).cfg = s.cfg := rfl
@[simp] theorem State.clearBusy_draws (s : State) : (s.clearBusy).draws = s.draws := rfl
@[simp] theorem State.clearBusy_freeCount (s : State) : (s.clearBusy).freeCount = s.freeCount := rfl
@[simp] theorem State.clearBusy_edges (s : State) : (s.clearBusy).edges = s.edges := rfl
@[simp] theorem State.clearBusy_serialLeft (s : State) : (s.clearBusy).serialLeft = s.serialLeft := rfl
@[simp] theorem State.clearBusy_caller (s : State) : (s.clearBusy).caller = s.caller := rfl
@[simp] theorem State.clearBusy_written (s : State) : (s.clearBusy).written = s.written := rfl
@[simp] theorem State.clearBusy_trace (s : State) : (s.clearBusy).trace = s.trace := rfl

/-! `raiseHalted` -/

@[simp] theorem State.raiseHalted_dim (s : State) : (s.raiseHalted).dim = s.dim := rfl
@[simp] theorem State.raiseHalted_bright (s : State) : (s.raiseHalted).bright = s.bright := rfl
@[simp] theorem State.raiseHalted_gen (s : State) : (s.raiseHalted).gen = s.gen := rfl
@[simp] theorem State.raiseHalted_frameCtr (s : State) : (s.raiseHalted).frameCtr = s.frameCtr := rfl
@[simp] theorem State.raiseHalted_ballPace (s : State) : (s.raiseHalted).ballPace = s.ballPace := rfl
@[simp] theorem State.raiseHalted_ballX (s : State) : (s.raiseHalted).ballX = s.ballX := rfl
@[simp] theorem State.raiseHalted_ballY (s : State) : (s.raiseHalted).ballY = s.ballY := rfl
@[simp] theorem State.raiseHalted_ballDx (s : State) : (s.raiseHalted).ballDx = s.ballDx := rfl
@[simp] theorem State.raiseHalted_ballDy (s : State) : (s.raiseHalted).ballDy = s.ballDy := rfl
@[simp] theorem State.raiseHalted_uop (s : State) : (s.raiseHalted).uop = s.uop := rfl
@[simp] theorem State.raiseHalted_field (s : State) : (s.raiseHalted).field = s.field := rfl
@[simp] theorem State.raiseHalted_row (s : State) : (s.raiseHalted).row = s.row := rfl
@[simp] theorem State.raiseHalted_serBusy (s : State) : (s.raiseHalted).serBusy = s.serBusy := rfl
@[simp] theorem State.raiseHalted_halted (s : State) : (s.raiseHalted).halted = true := rfl
@[simp] theorem State.raiseHalted_rowsel (s : State) : (s.raiseHalted).rowsel = s.rowsel := rfl
@[simp] theorem State.raiseHalted_latch (s : State) : (s.raiseHalted).latch = s.latch := rfl
@[simp] theorem State.raiseHalted_sdr (s : State) : (s.raiseHalted).sdr = s.sdr := rfl
@[simp] theorem State.raiseHalted_pressCnt (s : State) : (s.raiseHalted).pressCnt = s.pressCnt := rfl
@[simp] theorem State.raiseHalted_shift (s : State) : (s.raiseHalted).shift = s.shift := rfl
@[simp] theorem State.raiseHalted_colout (s : State) : (s.raiseHalted).colout = s.colout := rfl
@[simp] theorem State.raiseHalted_cfg (s : State) : (s.raiseHalted).cfg = s.cfg := rfl
@[simp] theorem State.raiseHalted_draws (s : State) : (s.raiseHalted).draws = s.draws := rfl
@[simp] theorem State.raiseHalted_freeCount (s : State) : (s.raiseHalted).freeCount = s.freeCount := rfl
@[simp] theorem State.raiseHalted_edges (s : State) : (s.raiseHalted).edges = s.edges := rfl
@[simp] theorem State.raiseHalted_serialLeft (s : State) : (s.raiseHalted).serialLeft = s.serialLeft := rfl
@[simp] theorem State.raiseHalted_caller (s : State) : (s.raiseHalted).caller = s.caller := rfl
@[simp] theorem State.raiseHalted_written (s : State) : (s.raiseHalted).written = s.written := rfl
@[simp] theorem State.raiseHalted_trace (s : State) : (s.raiseHalted).trace = s.trace := rfl

/-! `afterDraw` -/

@[simp] theorem State.afterDraw_dim (s : State) : (s.afterDraw).dim = s.dim := by unfold State.afterDraw; split <;> rfl
@[simp] theorem State.afterDraw_bright (s : State) : (s.afterDraw).bright = s.bright := by unfold State.afterDraw; split <;> rfl
@[simp] theorem State.afterDraw_gen (s : State) : (s.afterDraw).gen = s.gen := by unfold State.afterDraw; split <;> rfl
@[simp] theorem State.afterDraw_frameCtr (s : State) : (s.afterDraw).frameCtr = s.frameCtr := by unfold State.afterDraw; split <;> rfl
@[simp] theorem State.afterDraw_ballPace (s : State) : (s.afterDraw).ballPace = s.ballPace := by unfold State.afterDraw; split <;> rfl
@[simp] theorem State.afterDraw_ballX (s : State) : (s.afterDraw).ballX = s.ballX := by unfold State.afterDraw; split <;> rfl
@[simp] theorem State.afterDraw_ballY (s : State) : (s.afterDraw).ballY = s.ballY := by unfold State.afterDraw; split <;> rfl
@[simp] theorem State.afterDraw_ballDx (s : State) : (s.afterDraw).ballDx = s.ballDx := by unfold State.afterDraw; split <;> rfl
@[simp] theorem State.afterDraw_ballDy (s : State) : (s.afterDraw).ballDy = s.ballDy := by unfold State.afterDraw; split <;> rfl
@[simp] theorem State.afterDraw_uop (s : State) : (s.afterDraw).uop = s.uop := by unfold State.afterDraw; split <;> rfl
@[simp] theorem State.afterDraw_field (s : State) : (s.afterDraw).field = s.field := by unfold State.afterDraw; split <;> rfl
@[simp] theorem State.afterDraw_row (s : State) : (s.afterDraw).row = s.row := by unfold State.afterDraw; split <;> rfl
@[simp] theorem State.afterDraw_serBusy (s : State) : (s.afterDraw).serBusy = s.serBusy := by unfold State.afterDraw; split <;> rfl
@[simp] theorem State.afterDraw_halted (s : State) : (s.afterDraw).halted = s.halted := by unfold State.afterDraw; split <;> rfl
@[simp] theorem State.afterDraw_rowsel (s : State) : (s.afterDraw).rowsel = s.rowsel := by unfold State.afterDraw; split <;> rfl
@[simp] theorem State.afterDraw_latch (s : State) : (s.afterDraw).latch = s.latch := by unfold State.afterDraw; split <;> rfl
@[simp] theorem State.afterDraw_sdr (s : State) : (s.afterDraw).sdr = s.sdr := by unfold State.afterDraw; split <;> rfl
@[simp] theorem State.afterDraw_pressCnt (s : State) : (s.afterDraw).pressCnt = s.pressCnt := by unfold State.afterDraw; split <;> rfl
@[simp] theorem State.afterDraw_shift (s : State) : (s.afterDraw).shift = s.shift := by unfold State.afterDraw; split <;> rfl
@[simp] theorem State.afterDraw_colout (s : State) : (s.afterDraw).colout = s.colout := by unfold State.afterDraw; split <;> rfl
@[simp] theorem State.afterDraw_cfg (s : State) : (s.afterDraw).cfg = s.cfg := by unfold State.afterDraw; split <;> rfl
@[simp] theorem State.afterDraw_edges (s : State) : (s.afterDraw).edges = s.edges := by unfold State.afterDraw; split <;> rfl
@[simp] theorem State.afterDraw_serialLeft (s : State) : (s.afterDraw).serialLeft = s.serialLeft := by unfold State.afterDraw; split <;> rfl
@[simp] theorem State.afterDraw_caller (s : State) : (s.afterDraw).caller = s.caller := by unfold State.afterDraw; split <;> rfl
@[simp] theorem State.afterDraw_written (s : State) : (s.afterDraw).written = s.written := by unfold State.afterDraw; split <;> rfl
@[simp] theorem State.afterDraw_trace (s : State) : (s.afterDraw).trace = s.trace := by unfold State.afterDraw; split <;> rfl

/-! `setPlane` -/

@[simp] theorem State.setPlane_gen (p : Plane) (b : Buffer) (s : State) : (s.setPlane p b).gen = s.gen := by cases p <;> rfl
@[simp] theorem State.setPlane_frameCtr (p : Plane) (b : Buffer) (s : State) : (s.setPlane p b).frameCtr = s.frameCtr := by cases p <;> rfl
@[simp] theorem State.setPlane_ballPace (p : Plane) (b : Buffer) (s : State) : (s.setPlane p b).ballPace = s.ballPace := by cases p <;> rfl
@[simp] theorem State.setPlane_ballX (p : Plane) (b : Buffer) (s : State) : (s.setPlane p b).ballX = s.ballX := by cases p <;> rfl
@[simp] theorem State.setPlane_ballY (p : Plane) (b : Buffer) (s : State) : (s.setPlane p b).ballY = s.ballY := by cases p <;> rfl
@[simp] theorem State.setPlane_ballDx (p : Plane) (b : Buffer) (s : State) : (s.setPlane p b).ballDx = s.ballDx := by cases p <;> rfl
@[simp] theorem State.setPlane_ballDy (p : Plane) (b : Buffer) (s : State) : (s.setPlane p b).ballDy = s.ballDy := by cases p <;> rfl
@[simp] theorem State.setPlane_uop (p : Plane) (b : Buffer) (s : State) : (s.setPlane p b).uop = s.uop := by cases p <;> rfl
@[simp] theorem State.setPlane_field (p : Plane) (b : Buffer) (s : State) : (s.setPlane p b).field = s.field := by cases p <;> rfl
@[simp] theorem State.setPlane_row (p : Plane) (b : Buffer) (s : State) : (s.setPlane p b).row = s.row := by cases p <;> rfl
@[simp] theorem State.setPlane_serBusy (p : Plane) (b : Buffer) (s : State) : (s.setPlane p b).serBusy = s.serBusy := by cases p <;> rfl
@[simp] theorem State.setPlane_halted (p : Plane) (b : Buffer) (s : State) : (s.setPlane p b).halted = s.halted := by cases p <;> rfl
@[simp] theorem State.setPlane_rowsel (p : Plane) (b : Buffer) (s : State) : (s.setPlane p b).rowsel = s.rowsel := by cases p <;> rfl
@[simp] theorem State.setPlane_latch (p : Plane) (b : Buffer) (s : State) : (s.setPlane p b).latch = s.latch := by cases p <;> rfl
@[simp] theorem State.setPlane_sdr (p : Plane) (b : Buffer) (s : State) : (s.setPlane p b).sdr = s.sdr := by cases p <;> rfl
@[simp] theorem State.setPlane_pressCnt (p : Plane) (b : Buffer) (s : State) : (s.setPlane p b).pressCnt = s.pressCnt := by cases p <;> rfl
@[simp] theorem State.setPlane_shift (p : Plane) (b : Buffer) (s : State) : (s.setPlane p b).shift = s.shift := by cases p <;> rfl
@[simp] theorem State.setPlane_colout (p : Plane) (b : Buffer) (s : State) : (s.setPlane p b).colout = s.colout := by cases p <;> rfl
@[simp] theorem State.setPlane_cfg (p : Plane) (b : Buffer) (s : State) : (s.setPlane p b).cfg = s.cfg := by cases p <;> rfl
@[simp] theorem State.setPlane_draws (p : Plane) (b : Buffer) (s : State) : (s.setPlane p b).draws = s.draws := by cases p <;> rfl
@[simp] theorem State.setPlane_freeCount (p : Plane) (b : Buffer) (s : State) : (s.setPlane p b).freeCount = s.freeCount := by cases p <;> rfl
@[simp] theorem State.setPlane_edges (p : Plane) (b : Buffer) (s : State) : (s.setPlane p b).edges = s.edges := by cases p <;> rfl
@[simp] theorem State.setPlane_serialLeft (p : Plane) (b : Buffer) (s : State) : (s.setPlane p b).serialLeft = s.serialLeft := by cases p <;> rfl
@[simp] theorem State.setPlane_caller (p : Plane) (b : Buffer) (s : State) : (s.setPlane p b).caller = s.caller := by cases p <;> rfl
@[simp] theorem State.setPlane_written (p : Plane) (b : Buffer) (s : State) : (s.setPlane p b).written = s.written := by cases p <;> rfl
@[simp] theorem State.setPlane_trace (p : Plane) (b : Buffer) (s : State) : (s.setPlane p b).trace = s.trace := by cases p <;> rfl

/-! `setWord` -/

@[simp] theorem State.setWord_gen (p : Plane) (r : Nat) (v : Word) (s : State) : (s.setWord p r v).gen = s.gen := by cases p <;> rfl
@[simp] theorem State.setWord_frameCtr (p : Plane) (r : Nat) (v : Word) (s : State) : (s.setWord p r v).frameCtr = s.frameCtr := by cases p <;> rfl
@[simp] theorem State.setWord_ballPace (p : Plane) (r : Nat) (v : Word) (s : State) : (s.setWord p r v).ballPace = s.ballPace := by cases p <;> rfl
@[simp] theorem State.setWord_ballX (p : Plane) (r : Nat) (v : Word) (s : State) : (s.setWord p r v).ballX = s.ballX := by cases p <;> rfl
@[simp] theorem State.setWord_ballY (p : Plane) (r : Nat) (v : Word) (s : State) : (s.setWord p r v).ballY = s.ballY := by cases p <;> rfl
@[simp] theorem State.setWord_ballDx (p : Plane) (r : Nat) (v : Word) (s : State) : (s.setWord p r v).ballDx = s.ballDx := by cases p <;> rfl
@[simp] theorem State.setWord_ballDy (p : Plane) (r : Nat) (v : Word) (s : State) : (s.setWord p r v).ballDy = s.ballDy := by cases p <;> rfl
@[simp] theorem State.setWord_uop (p : Plane) (r : Nat) (v : Word) (s : State) : (s.setWord p r v).uop = s.uop := by cases p <;> rfl
@[simp] theorem State.setWord_field (p : Plane) (r : Nat) (v : Word) (s : State) : (s.setWord p r v).field = s.field := by cases p <;> rfl
@[simp] theorem State.setWord_row (p : Plane) (r : Nat) (v : Word) (s : State) : (s.setWord p r v).row = s.row := by cases p <;> rfl
@[simp] theorem State.setWord_serBusy (p : Plane) (r : Nat) (v : Word) (s : State) : (s.setWord p r v).serBusy = s.serBusy := by cases p <;> rfl
@[simp] theorem State.setWord_halted (p : Plane) (r : Nat) (v : Word) (s : State) : (s.setWord p r v).halted = s.halted := by cases p <;> rfl
@[simp] theorem State.setWord_rowsel (p : Plane) (r : Nat) (v : Word) (s : State) : (s.setWord p r v).rowsel = s.rowsel := by cases p <;> rfl
@[simp] theorem State.setWord_latch (p : Plane) (r : Nat) (v : Word) (s : State) : (s.setWord p r v).latch = s.latch := by cases p <;> rfl
@[simp] theorem State.setWord_sdr (p : Plane) (r : Nat) (v : Word) (s : State) : (s.setWord p r v).sdr = s.sdr := by cases p <;> rfl
@[simp] theorem State.setWord_pressCnt (p : Plane) (r : Nat) (v : Word) (s : State) : (s.setWord p r v).pressCnt = s.pressCnt := by cases p <;> rfl
@[simp] theorem State.setWord_shift (p : Plane) (r : Nat) (v : Word) (s : State) : (s.setWord p r v).shift = s.shift := by cases p <;> rfl
@[simp] theorem State.setWord_colout (p : Plane) (r : Nat) (v : Word) (s : State) : (s.setWord p r v).colout = s.colout := by cases p <;> rfl
@[simp] theorem State.setWord_cfg (p : Plane) (r : Nat) (v : Word) (s : State) : (s.setWord p r v).cfg = s.cfg := by cases p <;> rfl
@[simp] theorem State.setWord_draws (p : Plane) (r : Nat) (v : Word) (s : State) : (s.setWord p r v).draws = s.draws := by cases p <;> rfl
@[simp] theorem State.setWord_freeCount (p : Plane) (r : Nat) (v : Word) (s : State) : (s.setWord p r v).freeCount = s.freeCount := by cases p <;> rfl
@[simp] theorem State.setWord_edges (p : Plane) (r : Nat) (v : Word) (s : State) : (s.setWord p r v).edges = s.edges := by cases p <;> rfl
@[simp] theorem State.setWord_serialLeft (p : Plane) (r : Nat) (v : Word) (s : State) : (s.setWord p r v).serialLeft = s.serialLeft := by cases p <;> rfl
@[simp] theorem State.setWord_caller (p : Plane) (r : Nat) (v : Word) (s : State) : (s.setWord p r v).caller = s.caller := by cases p <;> rfl
@[simp] theorem State.setWord_written (p : Plane) (r : Nat) (v : Word) (s : State) : (s.setWord p r v).written = s.written := by cases p <;> rfl
@[simp] theorem State.setWord_trace (p : Plane) (r : Nat) (v : Word) (s : State) : (s.setWord p r v).trace = s.trace := by cases p <;> rfl

/-! `writeRowsel` -/

@[simp] theorem State.writeRowsel_dim (v : Byte) (s : State) : (s.writeRowsel v).dim = s.dim := rfl
@[simp] theorem State.writeRowsel_bright (v : Byte) (s : State) : (s.writeRowsel v).bright = s.bright := rfl
@[simp] theorem State.writeRowsel_gen (v : Byte) (s : State) : (s.writeRowsel v).gen = s.gen := rfl
@[simp] theorem State.writeRowsel_frameCtr (v : Byte) (s : State) : (s.writeRowsel v).frameCtr = s.frameCtr := rfl
@[simp] theorem State.writeRowsel_ballPace (v : Byte) (s : State) : (s.writeRowsel v).ballPace = s.ballPace := rfl
@[simp] theorem State.writeRowsel_ballX (v : Byte) (s : State) : (s.writeRowsel v).ballX = s.ballX := rfl
@[simp] theorem State.writeRowsel_ballY (v : Byte) (s : State) : (s.writeRowsel v).ballY = s.ballY := rfl
@[simp] theorem State.writeRowsel_ballDx (v : Byte) (s : State) : (s.writeRowsel v).ballDx = s.ballDx := rfl
@[simp] theorem State.writeRowsel_ballDy (v : Byte) (s : State) : (s.writeRowsel v).ballDy = s.ballDy := rfl
@[simp] theorem State.writeRowsel_uop (v : Byte) (s : State) : (s.writeRowsel v).uop = s.uop := rfl
@[simp] theorem State.writeRowsel_field (v : Byte) (s : State) : (s.writeRowsel v).field = s.field := rfl
@[simp] theorem State.writeRowsel_row (v : Byte) (s : State) : (s.writeRowsel v).row = s.row := rfl
@[simp] theorem State.writeRowsel_serBusy (v : Byte) (s : State) : (s.writeRowsel v).serBusy = s.serBusy := rfl
@[simp] theorem State.writeRowsel_halted (v : Byte) (s : State) : (s.writeRowsel v).halted = s.halted := rfl
@[simp] theorem State.writeRowsel_rowsel (v : Byte) (s : State) : (s.writeRowsel v).rowsel = v := rfl
@[simp] theorem State.writeRowsel_latch (v : Byte) (s : State) : (s.writeRowsel v).latch = s.latch := rfl
@[simp] theorem State.writeRowsel_sdr (v : Byte) (s : State) : (s.writeRowsel v).sdr = s.sdr := rfl
@[simp] theorem State.writeRowsel_pressCnt (v : Byte) (s : State) : (s.writeRowsel v).pressCnt = s.pressCnt := rfl
@[simp] theorem State.writeRowsel_shift (v : Byte) (s : State) : (s.writeRowsel v).shift = s.shift := rfl
@[simp] theorem State.writeRowsel_colout (v : Byte) (s : State) : (s.writeRowsel v).colout = s.colout := rfl
@[simp] theorem State.writeRowsel_cfg (v : Byte) (s : State) : (s.writeRowsel v).cfg = s.cfg := rfl
@[simp] theorem State.writeRowsel_draws (v : Byte) (s : State) : (s.writeRowsel v).draws = s.draws := rfl
@[simp] theorem State.writeRowsel_freeCount (v : Byte) (s : State) : (s.writeRowsel v).freeCount = s.freeCount := rfl
@[simp] theorem State.writeRowsel_edges (v : Byte) (s : State) : (s.writeRowsel v).edges = s.edges := rfl
@[simp] theorem State.writeRowsel_serialLeft (v : Byte) (s : State) : (s.writeRowsel v).serialLeft = s.serialLeft := rfl
@[simp] theorem State.writeRowsel_caller (v : Byte) (s : State) : (s.writeRowsel v).caller = s.caller := rfl
@[simp] theorem State.writeRowsel_written (v : Byte) (s : State) : (s.writeRowsel v).written = s.written := rfl
@[simp] theorem State.writeRowsel_trace (v : Byte) (s : State) : (s.writeRowsel v).trace = .sel v :: s.trace := rfl

/-! `startByte` -/

@[simp] theorem State.startByte_dim (v : Byte) (s : State) : (s.startByte v).dim = s.dim := rfl
@[simp] theorem State.startByte_bright (v : Byte) (s : State) : (s.startByte v).bright = s.bright := rfl
@[simp] theorem State.startByte_gen (v : Byte) (s : State) : (s.startByte v).gen = s.gen := rfl
@[simp] theorem State.startByte_frameCtr (v : Byte) (s : State) : (s.startByte v).frameCtr = s.frameCtr := rfl
@[simp] theorem State.startByte_ballPace (v : Byte) (s : State) : (s.startByte v).ballPace = s.ballPace := rfl
@[simp] theorem State.startByte_ballX (v : Byte) (s : State) : (s.startByte v).ballX = s.ballX := rfl
@[simp] theorem State.startByte_ballY (v : Byte) (s : State) : (s.startByte v).ballY = s.ballY := rfl
@[simp] theorem State.startByte_ballDx (v : Byte) (s : State) : (s.startByte v).ballDx = s.ballDx := rfl
@[simp] theorem State.startByte_ballDy (v : Byte) (s : State) : (s.startByte v).ballDy = s.ballDy := rfl
@[simp] theorem State.startByte_uop (v : Byte) (s : State) : (s.startByte v).uop = s.uop := rfl
@[simp] theorem State.startByte_field (v : Byte) (s : State) : (s.startByte v).field = s.field := rfl
@[simp] theorem State.startByte_row (v : Byte) (s : State) : (s.startByte v).row = s.row := rfl
@[simp] theorem State.startByte_serBusy (v : Byte) (s : State) : (s.startByte v).serBusy = true := rfl
@[simp] theorem State.startByte_halted (v : Byte) (s : State) : (s.startByte v).halted = s.halted := rfl
@[simp] theorem State.startByte_rowsel (v : Byte) (s : State) : (s.startByte v).rowsel = s.rowsel := rfl
@[simp] theorem State.startByte_latch (v : Byte) (s : State) : (s.startByte v).latch = s.latch := rfl
@[simp] theorem State.startByte_sdr (v : Byte) (s : State) : (s.startByte v).sdr = v := rfl
@[simp] theorem State.startByte_pressCnt (v : Byte) (s : State) : (s.startByte v).pressCnt = s.pressCnt := rfl
@[simp] theorem State.startByte_shift (v : Byte) (s : State) : (s.startByte v).shift = s.shift := rfl
@[simp] theorem State.startByte_colout (v : Byte) (s : State) : (s.startByte v).colout = s.colout := rfl
@[simp] theorem State.startByte_cfg (v : Byte) (s : State) : (s.startByte v).cfg = s.cfg := rfl
@[simp] theorem State.startByte_draws (v : Byte) (s : State) : (s.startByte v).draws = s.draws := rfl
@[simp] theorem State.startByte_freeCount (v : Byte) (s : State) : (s.startByte v).freeCount = s.freeCount := rfl
@[simp] theorem State.startByte_edges (v : Byte) (s : State) : (s.startByte v).edges = s.edges := rfl
@[simp] theorem State.startByte_serialLeft (v : Byte) (s : State) : (s.startByte v).serialLeft = s.serialLeft := rfl
@[simp] theorem State.startByte_caller (v : Byte) (s : State) : (s.startByte v).caller = s.caller := rfl
@[simp] theorem State.startByte_written (v : Byte) (s : State) : (s.startByte v).written = s.written := rfl
@[simp] theorem State.startByte_trace (v : Byte) (s : State) : (s.startByte v).trace = .byte v :: s.trace := rfl

/-! `shiftByte` -/

@[simp] theorem State.shiftByte_dim (s : State) : (s.shiftByte).dim = s.dim := rfl
@[simp] theorem State.shiftByte_bright (s : State) : (s.shiftByte).bright = s.bright := rfl
@[simp] theorem State.shiftByte_gen (s : State) : (s.shiftByte).gen = s.gen := rfl
@[simp] theorem State.shiftByte_frameCtr (s : State) : (s.shiftByte).frameCtr = s.frameCtr := rfl
@[simp] theorem State.shiftByte_ballPace (s : State) : (s.shiftByte).ballPace = s.ballPace := rfl
@[simp] theorem State.shiftByte_ballX (s : State) : (s.shiftByte).ballX = s.ballX := rfl
@[simp] theorem State.shiftByte_ballY (s : State) : (s.shiftByte).ballY = s.ballY := rfl
@[simp] theorem State.shiftByte_ballDx (s : State) : (s.shiftByte).ballDx = s.ballDx := rfl
@[simp] theorem State.shiftByte_ballDy (s : State) : (s.shiftByte).ballDy = s.ballDy := rfl
@[simp] theorem State.shiftByte_uop (s : State) : (s.shiftByte).uop = s.uop := rfl
@[simp] theorem State.shiftByte_field (s : State) : (s.shiftByte).field = s.field := rfl
@[simp] theorem State.shiftByte_row (s : State) : (s.shiftByte).row = s.row := rfl
@[simp] theorem State.shiftByte_serBusy (s : State) : (s.shiftByte).serBusy = false := rfl
@[simp] theorem State.shiftByte_halted (s : State) : (s.shiftByte).halted = s.halted := rfl
@[simp] theorem State.shiftByte_rowsel (s : State) : (s.shiftByte).rowsel = s.rowsel := rfl
@[simp] theorem State.shiftByte_latch (s : State) : (s.shiftByte).latch = s.latch := rfl
@[simp] theorem State.shiftByte_sdr (s : State) : (s.shiftByte).sdr = s.sdr := rfl
@[simp] theorem State.shiftByte_pressCnt (s : State) : (s.shiftByte).pressCnt = s.pressCnt := rfl
@[simp] theorem State.shiftByte_shift (s : State) : (s.shiftByte).shift = s.shift.extractLsb' 0 24 ++ s.sdr := rfl
@[simp] theorem State.shiftByte_colout (s : State) : (s.shiftByte).colout = s.colout := rfl
@[simp] theorem State.shiftByte_cfg (s : State) : (s.shiftByte).cfg = s.cfg := rfl
@[simp] theorem State.shiftByte_draws (s : State) : (s.shiftByte).draws = s.draws := rfl
@[simp] theorem State.shiftByte_freeCount (s : State) : (s.shiftByte).freeCount = s.freeCount := rfl
@[simp] theorem State.shiftByte_edges (s : State) : (s.shiftByte).edges = s.edges := rfl
@[simp] theorem State.shiftByte_serialLeft (s : State) :
    s.shiftByte.serialLeft = s.serialLeft.map (fun n => n - 1) := rfl
@[simp] theorem State.shiftByte_caller (s : State) : (s.shiftByte).caller = s.caller := rfl
@[simp] theorem State.shiftByte_written (s : State) : (s.shiftByte).written = s.written := rfl
@[simp] theorem State.shiftByte_trace (s : State) : (s.shiftByte).trace = s.trace := rfl

/-! `tryShift` -/

@[simp] theorem State.tryShift_dim (s : State) : (s.tryShift).dim = s.dim := by unfold State.tryShift; split <;> rfl
@[simp] theorem State.tryShift_bright (s : State) : (s.tryShift).bright = s.bright := by unfold State.tryShift; split <;> rfl
@[simp] theorem State.tryShift_gen (s : State) : (s.tryShift).gen = s.gen := by unfold State.tryShift; split <;> rfl
@[simp] theorem State.tryShift_frameCtr (s : State) : (s.tryShift).frameCtr = s.frameCtr := by unfold State.tryShift; split <;> rfl
@[simp] theorem State.tryShift_ballPace (s : State) : (s.tryShift).ballPace = s.ballPace := by unfold State.tryShift; split <;> rfl
@[simp] theorem State.tryShift_ballX (s : State) : (s.tryShift).ballX = s.ballX := by unfold State.tryShift; split <;> rfl
@[simp] theorem State.tryShift_ballY (s : State) : (s.tryShift).ballY = s.ballY := by unfold State.tryShift; split <;> rfl
@[simp] theorem State.tryShift_ballDx (s : State) : (s.tryShift).ballDx = s.ballDx := by unfold State.tryShift; split <;> rfl
@[simp] theorem State.tryShift_ballDy (s : State) : (s.tryShift).ballDy = s.ballDy := by unfold State.tryShift; split <;> rfl
@[simp] theorem State.tryShift_uop (s : State) : (s.tryShift).uop = s.uop := by unfold State.tryShift; split <;> rfl
@[simp] theorem State.tryShift_field (s : State) : (s.tryShift).field = s.field := by unfold State.tryShift; split <;> rfl
@[simp] theorem State.tryShift_row (s : State) : (s.tryShift).row = s.row := by unfold State.tryShift; split <;> rfl
@[simp] theorem State.tryShift_halted (s : State) : (s.tryShift).halted = s.halted := by unfold State.tryShift; split <;> rfl
@[simp] theorem State.tryShift_rowsel (s : State) : (s.tryShift).rowsel = s.rowsel := by unfold State.tryShift; split <;> rfl
@[simp] theorem State.tryShift_latch (s : State) : (s.tryShift).latch = s.latch := by unfold State.tryShift; split <;> rfl
@[simp] theorem State.tryShift_sdr (s : State) : (s.tryShift).sdr = s.sdr := by unfold State.tryShift; split <;> rfl
@[simp] theorem State.tryShift_pressCnt (s : State) : (s.tryShift).pressCnt = s.pressCnt := by unfold State.tryShift; split <;> rfl
@[simp] theorem State.tryShift_colout (s : State) : (s.tryShift).colout = s.colout := by unfold State.tryShift; split <;> rfl
@[simp] theorem State.tryShift_cfg (s : State) : (s.tryShift).cfg = s.cfg := by unfold State.tryShift; split <;> rfl
@[simp] theorem State.tryShift_draws (s : State) : (s.tryShift).draws = s.draws := by unfold State.tryShift; split <;> rfl
@[simp] theorem State.tryShift_freeCount (s : State) : (s.tryShift).freeCount = s.freeCount := by unfold State.tryShift; split <;> rfl
@[simp] theorem State.tryShift_edges (s : State) : (s.tryShift).edges = s.edges := by unfold State.tryShift; split <;> rfl
@[simp] theorem State.tryShift_caller (s : State) : (s.tryShift).caller = s.caller := by unfold State.tryShift; split <;> rfl
@[simp] theorem State.tryShift_written (s : State) : (s.tryShift).written = s.written := by unfold State.tryShift; split <;> rfl
@[simp] theorem State.tryShift_trace (s : State) : (s.tryShift).trace = s.trace := by unfold State.tryShift; split <;> rfl

/-! `sendByte` -/

@[simp] theorem State.sendByte_dim (v : Byte) (s : State) : (s.sendByte v).dim = s.dim := by simp [State.sendByte]
@[simp] theorem State.sendByte_bright (v : Byte) (s : State) : (s.sendByte v).bright = s.bright := by simp [State.sendByte]
@[simp] theorem State.sendByte_gen (v : Byte) (s : State) : (s.sendByte v).gen = s.gen := by simp [State.sendByte]
@[simp] theorem State.sendByte_frameCtr (v : Byte) (s : State) : (s.sendByte v).frameCtr = s.frameCtr := by simp [State.sendByte]
@[simp] theorem State.sendByte_ballPace (v : Byte) (s : State) : (s.sendByte v).ballPace = s.ballPace := by simp [State.sendByte]
@[simp] theorem State.sendByte_ballX (v : Byte) (s : State) : (s.sendByte v).ballX = s.ballX := by simp [State.sendByte]
@[simp] theorem State.sendByte_ballY (v : Byte) (s : State) : (s.sendByte v).ballY = s.ballY := by simp [State.sendByte]
@[simp] theorem State.sendByte_ballDx (v : Byte) (s : State) : (s.sendByte v).ballDx = s.ballDx := by simp [State.sendByte]
@[simp] theorem State.sendByte_ballDy (v : Byte) (s : State) : (s.sendByte v).ballDy = s.ballDy := by simp [State.sendByte]
@[simp] theorem State.sendByte_uop (v : Byte) (s : State) : (s.sendByte v).uop = s.uop := by simp [State.sendByte]
@[simp] theorem State.sendByte_field (v : Byte) (s : State) : (s.sendByte v).field = s.field := by simp [State.sendByte]
@[simp] theorem State.sendByte_row (v : Byte) (s : State) : (s.sendByte v).row = s.row := by simp [State.sendByte]
@[simp] theorem State.sendByte_halted (v : Byte) (s : State) : (s.sendByte v).halted = s.halted := by simp [State.sendByte]
@[simp] theorem State.sendByte_rowsel (v : Byte) (s : State) : (s.sendByte v).rowsel = s.rowsel := by simp [State.sendByte]
@[simp] theorem State.sendByte_latch (v : Byte) (s : State) : (s.sendByte v).latch = s.latch := by simp [State.sendByte]
@[simp] theorem State.sendByte_pressCnt (v : Byte) (s : State) : (s.sendByte v).pressCnt = s.pressCnt := by simp [State.sendByte]
@[simp] theorem State.sendByte_colout (v : Byte) (s : State) : (s.sendByte v).colout = s.colout := by simp [State.sendByte]
@[simp] theorem State.sendByte_cfg (v : Byte) (s : State) : (s.sendByte v).cfg = s.cfg := by simp [State.sendByte]
@[simp] theorem State.sendByte_draws (v : Byte) (s : State) : (s.sendByte v).draws = s.draws := by simp [State.sendByte]
@[simp] theorem State.sendByte_freeCount (v : Byte) (s : State) : (s.sendByte v).freeCount = s.freeCount := by simp [State.sendByte]
@[simp] theorem State.sendByte_edges (v : Byte) (s : State) : (s.sendByte v).edges = s.edges := by simp [State.sendByte]
@[simp] theorem State.sendByte_caller (v : Byte) (s : State) : (s.sendByte v).caller = s.caller := by simp [State.sendByte]
@[simp] theorem State.sendByte_written (v : Byte) (s : State) : (s.sendByte v).written = s.written := by simp [State.sendByte]
@[simp] theorem State.sendByte_sdr (v : Byte) (s : State) : (s.sendByte v).sdr = v := by simp [State.sendByte]
@[simp] theorem State.sendByte_trace (v : Byte) (s : State) : (s.sendByte v).trace = .byte v :: s.trace := by
  simp [State.sendByte]

/-! `latchSet` -/

@[simp] theorem State.latchSet_dim (s : State) : (s.latchSet).dim = s.dim := rfl
@[simp] theorem State.latchSet_bright (s : State) : (s.latchSet).bright = s.bright := rfl
@[simp] theorem State.latchSet_gen (s : State) : (s.latchSet).gen = s.gen := rfl
@[simp] theorem State.latchSet_frameCtr (s : State) : (s.latchSet).frameCtr = s.frameCtr := rfl
@[simp] theorem State.latchSet_ballPace (s : State) : (s.latchSet).ballPace = s.ballPace := rfl
@[simp] theorem State.latchSet_ballX (s : State) : (s.latchSet).ballX = s.ballX := rfl
@[simp] theorem State.latchSet_ballY (s : State) : (s.latchSet).ballY = s.ballY := rfl
@[simp] theorem State.latchSet_ballDx (s : State) : (s.latchSet).ballDx = s.ballDx := rfl
@[simp] theorem State.latchSet_ballDy (s : State) : (s.latchSet).ballDy = s.ballDy := rfl
@[simp] theorem State.latchSet_uop (s : State) : (s.latchSet).uop = s.uop := rfl
@[simp] theorem State.latchSet_field (s : State) : (s.latchSet).field = s.field := rfl
@[simp] theorem State.latchSet_row (s : State) : (s.latchSet).row = s.row := rfl
@[simp] theorem State.latchSet_serBusy (s : State) : (s.latchSet).serBusy = s.serBusy := rfl
@[simp] theorem State.latchSet_halted (s : State) : (s.latchSet).halted = s.halted := rfl
@[simp] theorem State.latchSet_rowsel (s : State) : (s.latchSet).rowsel = s.rowsel := rfl
@[simp] theorem State.latchSet_latch (s : State) : (s.latchSet).latch = true := rfl
@[simp] theorem State.latchSet_sdr (s : State) : (s.latchSet).sdr = s.sdr := rfl
@[simp] theorem State.latchSet_pressCnt (s : State) : (s.latchSet).pressCnt = s.pressCnt := rfl
@[simp] theorem State.latchSet_shift (s : State) : (s.latchSet).shift = s.shift := rfl
@[simp] theorem State.latchSet_colout (s : State) : (s.latchSet).colout = s.shift := rfl
@[simp] theorem State.latchSet_cfg (s : State) : (s.latchSet).cfg = s.cfg := rfl
@[simp] theorem State.latchSet_draws (s : State) : (s.latchSet).draws = s.draws := rfl
@[simp] theorem State.latchSet_freeCount (s : State) : (s.latchSet).freeCount = s.freeCount := rfl
@[simp] theorem State.latchSet_edges (s : State) : (s.latchSet).edges = s.edges := rfl
@[simp] theorem State.latchSet_serialLeft (s : State) : (s.latchSet).serialLeft = s.serialLeft := rfl
@[simp] theorem State.latchSet_caller (s : State) : (s.latchSet).caller = s.caller := rfl
@[simp] theorem State.latchSet_written (s : State) : (s.latchSet).written = s.written := rfl
@[simp] theorem State.latchSet_trace (s : State) : (s.latchSet).trace = .latch true :: s.trace := rfl

/-! `latchClear` -/

@[simp] theorem State.latchClear_dim (s : State) : (s.latchClear).dim = s.dim := rfl
@[simp] theorem State.latchClear_bright (s : State) : (s.latchClear).bright = s.bright := rfl
@[simp] theorem State.latchClear_gen (s : State) : (s.latchClear).gen = s.gen := rfl
@[simp] theorem State.latchClear_frameCtr (s : State) : (s.latchClear).frameCtr = s.frameCtr := rfl
@[simp] theorem State.latchClear_ballPace (s : State) : (s.latchClear).ballPace = s.ballPace := rfl
@[simp] theorem State.latchClear_ballX (s : State) : (s.latchClear).ballX = s.ballX := rfl
@[simp] theorem State.latchClear_ballY (s : State) : (s.latchClear).ballY = s.ballY := rfl
@[simp] theorem State.latchClear_ballDx (s : State) : (s.latchClear).ballDx = s.ballDx := rfl
@[simp] theorem State.latchClear_ballDy (s : State) : (s.latchClear).ballDy = s.ballDy := rfl
@[simp] theorem State.latchClear_uop (s : State) : (s.latchClear).uop = s.uop := rfl
@[simp] theorem State.latchClear_field (s : State) : (s.latchClear).field = s.field := rfl
@[simp] theorem State.latchClear_row (s : State) : (s.latchClear).row = s.row := rfl
@[simp] theorem State.latchClear_serBusy (s : State) : (s.latchClear).serBusy = s.serBusy := rfl
@[simp] theorem State.latchClear_halted (s : State) : (s.latchClear).halted = s.halted := rfl
@[simp] theorem State.latchClear_rowsel (s : State) : (s.latchClear).rowsel = s.rowsel := rfl
@[simp] theorem State.latchClear_latch (s : State) : (s.latchClear).latch = false := rfl
@[simp] theorem State.latchClear_sdr (s : State) : (s.latchClear).sdr = s.sdr := rfl
@[simp] theorem State.latchClear_pressCnt (s : State) : (s.latchClear).pressCnt = s.pressCnt := rfl
@[simp] theorem State.latchClear_shift (s : State) : (s.latchClear).shift = s.shift := rfl
@[simp] theorem State.latchClear_colout (s : State) : (s.latchClear).colout = s.colout := rfl
@[simp] theorem State.latchClear_cfg (s : State) : (s.latchClear).cfg = s.cfg := rfl
@[simp] theorem State.latchClear_draws (s : State) : (s.latchClear).draws = s.draws := rfl
@[simp] theorem State.latchClear_freeCount (s : State) : (s.latchClear).freeCount = s.freeCount := rfl
@[simp] theorem State.latchClear_edges (s : State) : (s.latchClear).edges = s.edges := rfl
@[simp] theorem State.latchClear_serialLeft (s : State) : (s.latchClear).serialLeft = s.serialLeft := rfl
@[simp] theorem State.latchClear_caller (s : State) : (s.latchClear).caller = s.caller := rfl
@[simp] theorem State.latchClear_written (s : State) : (s.latchClear).written = s.written := rfl
@[simp] theorem State.latchClear_trace (s : State) : (s.latchClear).trace = .latch false :: s.trace := rfl

/-! `latchPulse` -/

@[simp] theorem State.latchPulse_dim (s : State) : (s.latchPulse).dim = s.dim := rfl
@[simp] theorem State.latchPulse_bright (s : State) : (s.latchPulse).bright = s.bright := rfl
@[simp] theorem State.latchPulse_gen (s : State) : (s.latchPulse).gen = s.gen := rfl
@[simp] theorem State.latchPulse_frameCtr (s : State) : (s.latchPulse).frameCtr = s.frameCtr := rfl
@[simp] theorem State.latchPulse_ballPace (s : State) : (s.latchPulse).ballPace = s.ballPace := rfl
@[simp] theorem State.latchPulse_ballX (s : State) : (s.latchPulse).ballX = s.ballX := rfl
@[simp] theorem State.latchPulse_ballY (s : State) : (s.latchPulse).ballY = s.ballY := rfl
@[simp] theorem State.latchPulse_ballDx (s : State) : (s.latchPulse).ballDx = s.ballDx := rfl
@[simp] theorem State.latchPulse_ballDy (s : State) : (s.latchPulse).ballDy = s.ballDy := rfl
@[simp] theorem State.latchPulse_uop (s : State) : (s.latchPulse).uop = s.uop := rfl
@[simp] theorem State.latchPulse_field (s : State) : (s.latchPulse).field = s.field := rfl
@[simp] theorem State.latchPulse_row (s : State) : (s.latchPulse).row = s.row := rfl
@[simp] theorem State.latchPulse_serBusy (s : State) : (s.latchPulse).serBusy = s.serBusy := rfl
@[simp] theorem State.latchPulse_halted (s : State) : (s.latchPulse).halted = s.halted := rfl
@[simp] theorem State.latchPulse_rowsel (s : State) : (s.latchPulse).rowsel = s.rowsel := rfl
@[simp] theorem State.latchPulse_sdr (s : State) : (s.latchPulse).sdr = s.sdr := rfl
@[simp] theorem State.latchPulse_pressCnt (s : State) : (s.latchPulse).pressCnt = s.pressCnt := rfl
@[simp] theorem State.latchPulse_shift (s : State) : (s.latchPulse).shift = s.shift := rfl
@[simp] theorem State.latchPulse_cfg (s : State) : (s.latchPulse).cfg = s.cfg := rfl
@[simp] theorem State.latchPulse_draws (s : State) : (s.latchPulse).draws = s.draws := rfl
@[simp] theorem State.latchPulse_freeCount (s : State) : (s.latchPulse).freeCount = s.freeCount := rfl
@[simp] theorem State.latchPulse_edges (s : State) : (s.latchPulse).edges = s.edges := rfl
@[simp] theorem State.latchPulse_serialLeft (s : State) : (s.latchPulse).serialLeft = s.serialLeft := rfl
@[simp] theorem State.latchPulse_caller (s : State) : (s.latchPulse).caller = s.caller := rfl
@[simp] theorem State.latchPulse_written (s : State) : (s.latchPulse).written = s.written := rfl
@[simp] theorem State.latchPulse_latch (s : State) : s.latchPulse.latch = false := rfl
@[simp] theorem State.latchPulse_colout (s : State) : s.latchPulse.colout = s.shift := rfl
@[simp] theorem State.latchPulse_trace (s : State) :
    s.latchPulse.trace = .latch false :: .latch true :: s.trace := rfl

/-! `setUop` -/

@[simp] theorem State.setUop_dim (u : BitVec 4) (s : State) : (s.setUop u).dim = s.dim := rfl
@[simp] theorem State.setUop_bright (u : BitVec 4) (s : State) : (s.setUop u).bright = s.bright := rfl
@[simp] theorem State.setUop_gen (u : BitVec 4) (s : State) : (s.setUop u).gen = s.gen := rfl
@[simp] theorem State.setUop_frameCtr (u : BitVec 4) (s : State) : (s.setUop u).frameCtr = s.frameCtr := rfl
@[simp] theorem State.setUop_ballPace (u : BitVec 4) (s : State) : (s.setUop u).ballPace = s.ballPace := rfl
@[simp] theorem State.setUop_ballX (u : BitVec 4) (s : State) : (s.setUop u).ballX = s.ballX := rfl
@[simp] theorem State.setUop_ballY (u : BitVec 4) (s : State) : (s.setUop u).ballY = s.ballY := rfl
@[simp] theorem State.setUop_ballDx (u : BitVec 4) (s : State) : (s.setUop u).ballDx = s.ballDx := rfl
@[simp] theorem State.setUop_ballDy (u : BitVec 4) (s : State) : (s.setUop u).ballDy = s.ballDy := rfl
@[simp] theorem State.setUop_uop (u : BitVec 4) (s : State) : (s.setUop u).uop = u := rfl
@[simp] theorem State.setUop_field (u : BitVec 4) (s : State) : (s.setUop u).field = s.field := rfl
@[simp] theorem State.setUop_row (u : BitVec 4) (s : State) : (s.setUop u).row = s.row := rfl
@[simp] theorem State.setUop_serBusy (u : BitVec 4) (s : State) : (s.setUop u).serBusy = s.serBusy := rfl
@[simp] theorem State.setUop_halted (u : BitVec 4) (s : State) : (s.setUop u).halted = s.halted := rfl
@[simp] theorem State.setUop_rowsel (u : BitVec 4) (s : State) : (s.setUop u).rowsel = s.rowsel := rfl
@[simp] theorem State.setUop_latch (u : BitVec 4) (s : State) : (s.setUop u).latch = s.latch := rfl
@[simp] theorem State.setUop_sdr (u : BitVec 4) (s : State) : (s.setUop u).sdr = s.sdr := rfl
@[simp] theorem State.setUop_pressCnt (u : BitVec 4) (s : State) : (s.setUop u).pressCnt = s.pressCnt := rfl
@[simp] theorem State.setUop_shift (u : BitVec 4) (s : State) : (s.setUop u).shift = s.shift := rfl
@[simp] theorem State.setUop_colout (u : BitVec 4) (s : State) : (s.setUop u).colout = s.colout := rfl
@[simp] theorem State.setUop_cfg (u : BitVec 4) (s : State) : (s.setUop u).cfg = s.cfg := rfl
@[simp] theorem State.setUop_draws (u : BitVec 4) (s : State) : (s.setUop u).draws = s.draws := rfl
@[simp] theorem State.setUop_freeCount (u : BitVec 4) (s : State) : (s.setUop u).freeCount = s.freeCount := rfl
@[simp] theorem State.setUop_edges (u : BitVec 4) (s : State) : (s.setUop u).edges = s.edges := rfl
@[simp] theorem State.setUop_serialLeft (u : BitVec 4) (s : State) : (s.setUop u).serialLeft = s.serialLeft := rfl
@[simp] theorem State.setUop_caller (u : BitVec 4) (s : State) : (s.setUop u).caller = s.caller := rfl
@[simp] theorem State.setUop_written (u : BitVec 4) (s : State) : (s.setUop u).written = s.written := rfl
@[simp] theorem State.setUop_trace (u : BitVec 4) (s : State) : (s.setUop u).trace = s.trace := rfl

/-! `setSeq` -/

@[simp] theorem State.setSeq_dim (u : BitVec 4) (f : BitVec 2) (r : BitVec 5) (s : State) : (s.setSeq u f r).dim = s.dim := rfl
@[simp] theorem State.setSeq_bright (u : BitVec 4) (f : BitVec 2) (r : BitVec 5) (s : State) : (s.setSeq u f r).bright = s.bright := rfl
@[simp] theorem State.setSeq_gen (u : BitVec 4) (f : BitVec 2) (r : BitVec 5) (s : State) : (s.setSeq u f r).gen = s.gen := rfl
@[simp] theorem State.setSeq_frameCtr (u : BitVec 4) (f : BitVec 2) (r : BitVec 5) (s : State) : (s.setSeq u f r).frameCtr = s.frameCtr := rfl
@[simp] theorem State.setSeq_ballPace (u : BitVec 4) (f : BitVec 2) (r : BitVec 5) (s : State) : (s.setSeq u f r).ballPace = s.ballPace := rfl
@[simp] theorem State.setSeq_ballX (u : BitVec 4) (f : BitVec 2) (r : BitVec 5) (s : State) : (s.setSeq u f r).ballX = s.ballX := rfl
@[simp] theorem State.setSeq_ballY (u : BitVec 4) (f : BitVec 2) (r : BitVec 5) (s : State) : (s.setSeq u f r).ballY = s.ballY := rfl
@[simp] theorem State.setSeq_ballDx (u : BitVec 4) (f : BitVec 2) (r : BitVec 5) (s : State) : (s.setSeq u f r).ballDx = s.ballDx := rfl
@[simp] theorem State.setSeq_ballDy (u : BitVec 4) (f : BitVec 2) (r : BitVec 5) (s : State) : (s.setSeq u f r).ballDy = s.ballDy := rfl
@[simp] theorem State.setSeq_uop (u : BitVec 4) (f : BitVec 2) (r : BitVec 5) (s : State) : (s.setSeq u f r).uop = u := rfl
@[simp] theorem State.setSeq_field (u : BitVec 4) (f : BitVec 2) (r : BitVec 5) (s : State) : (s.setSeq u f r).field = f := rfl
@[simp] theorem State.setSeq_row (u : BitVec 4) (f : BitVec 2) (r : BitVec 5) (s : State) : (s.setSeq u f r).row = r := rfl
@[simp] theorem State.setSeq_serBusy (u : BitVec 4) (f : BitVec 2) (r : BitVec 5) (s : State) : (s.setSeq u f r).serBusy = s.serBusy := rfl
@[simp] theorem State.setSeq_halted (u : BitVec 4) (f : BitVec 2) (r : BitVec 5) (s : State) : (s.setSeq u f r).halted = s.halted := rfl
@[simp] theorem State.setSeq_rowsel (u : BitVec 4) (f : BitVec 2) (r : BitVec 5) (s : State) : (s.setSeq u f r).rowsel = s.rowsel := rfl
@[simp] theorem State.setSeq_latch (u : BitVec 4) (f : BitVec 2) (r : BitVec 5) (s : State) : (s.setSeq u f r).latch = s.latch := rfl
@[simp] theorem State.setSeq_sdr (u : BitVec 4) (f : BitVec 2) (r : BitVec 5) (s : State) : (s.setSeq u f r).sdr = s.sdr := rfl
@[simp] theorem State.setSeq_pressCnt (u : BitVec 4) (f : BitVec 2) (r : BitVec 5) (s : State) : (s.setSeq u f r).pressCnt = s.pressCnt := rfl
@[simp] theorem State.setSeq_shift (u : BitVec 4) (f : BitVec 2) (r : BitVec 5) (s : State) : (s.setSeq u f r).shift = s.shift := rfl
@[simp] theorem State.setSeq_colout (u : BitVec 4) (f : BitVec 2) (r : BitVec 5) (s : State) : (s.setSeq u f r).colout = s.colout := rfl
@[simp] theorem State.setSeq_cfg (u : BitVec 4) (f : BitVec 2) (r : BitVec 5) (s : State) : (s.setSeq u f r).cfg = s.cfg := rfl
@[simp] theorem State.setSeq_draws (u : BitVec 4) (f : BitVec 2) (r : BitVec 5) (s : State) : (s.setSeq u f r).draws = s.draws := rfl
@[simp] theorem State.setSeq_freeCount (u : BitVec 4) (f : BitVec 2) (r : BitVec 5) (s : State) : (s.setSeq u f r).freeCount = s.freeCount := rfl
@[simp] theorem State.setSeq_edges (u : BitVec 4) (f : BitVec 2) (r : BitVec 5) (s : State) : (s.setSeq u f r).edges = s.edges := rfl
@[simp] theorem State.setSeq_serialLeft (u : BitVec 4) (f : BitVec 2) (r : BitVec 5) (s : State) : (s.setSeq u f r).serialLeft = s.serialLeft := rfl
@[simp] theorem State.setSeq_caller (u : BitVec 4) (f : BitVec 2) (r : BitVec 5) (s : State) : (s.setSeq u f r).caller = s.caller := rfl
@[simp] theorem State.setSeq_written (u : BitVec 4) (f : BitVec 2) (r : BitVec 5) (s : State) : (s.setSeq u f r).written = s.written := rfl
@[simp] theorem State.setSeq_trace (u : BitVec 4) (f : BitVec 2) (r : BitVec 5) (s : State) : (s.setSeq u f r).trace = s.trace := rfl

/-! `advanceSeq` -/

@[simp] theorem State.advanceSeq_dim (s : State) : (s.advanceSeq).dim = s.dim := rfl
@[simp] theorem State.advanceSeq_bright (s : State) : (s.advanceSeq).bright = s.bright := rfl
@[simp] theorem State.advanceSeq_gen (s : State) : (s.advanceSeq).gen = s.gen := rfl
@[simp] theorem State.advanceSeq_frameCtr (s : State) : (s.advanceSeq).frameCtr = s.frameCtr := rfl
@[simp] theorem State.advanceSeq_ballPace (s : State) : (s.advanceSeq).ballPace = s.ballPace := rfl
@[simp] theorem State.advanceSeq_ballX (s : State) : (s.advanceSeq).ballX = s.ballX := rfl
@[simp] theorem State.advanceSeq_ballY (s : State) : (s.advanceSeq).ballY = s.ballY := rfl
@[simp] theorem State.advanceSeq_ballDx (s : State) : (s.advanceSeq).ballDx = s.ballDx := rfl
@[simp] theorem State.advanceSeq_ballDy (s : State) : (s.advanceSeq).ballDy = s.ballDy := rfl
@[simp] theorem State.advanceSeq_uop (s : State) : (s.advanceSeq).uop = (advance s.field s.row).1 := rfl
@[simp] theorem State.advanceSeq_field (s : State) : (s.advanceSeq).field = (advance s.field s.row).2.1 := rfl
@[simp] theorem State.advanceSeq_row (s : State) : (s.advanceSeq).row = (advance s.field s.row).2.2 := rfl
@[simp] theorem State.advanceSeq_serBusy (s : State) : (s.advanceSeq).serBusy = s.serBusy := rfl
@[simp] theorem State.advanceSeq_halted (s : State) : (s.advanceSeq).halted = s.halted := rfl
@[simp] theorem State.advanceSeq_rowsel (s : State) : (s.advanceSeq).rowsel = s.rowsel := rfl
@[simp] theorem State.advanceSeq_latch (s : State) : (s.advanceSeq).latch = s.latch := rfl
@[simp] theorem State.advanceSeq_sdr (s : State) : (s.advanceSeq).sdr = s.sdr := rfl
@[simp] theorem State.advanceSeq_pressCnt (s : State) : (s.advanceSeq).pressCnt = s.pressCnt := rfl
@[simp] theorem State.advanceSeq_shift (s : State) : (s.advanceSeq).shift = s.shift := rfl
@[simp] theorem State.advanceSeq_colout (s : State) : (s.advanceSeq).colout = s.colout := rfl
@[simp] theorem State.advanceSeq_cfg (s : State) : (s.advanceSeq).cfg = s.cfg := rfl
@[simp] theorem State.advanceSeq_draws (s : State) : (s.advanceSeq).draws = s.draws := rfl
@[simp] theorem State.advanceSeq_freeCount (s : State) : (s.advanceSeq).freeCount = s.freeCount := rfl
@[simp] theorem State.advanceSeq_edges (s : State) : (s.advanceSeq).edges = s.edges := rfl
@[simp] theorem State.advanceSeq_serialLeft (s : State) : (s.advanceSeq).serialLeft = s.serialLeft := rfl
@[simp] theorem State.advanceSeq_caller (s : State) : (s.advanceSeq).caller = s.caller := rfl
@[simp] theorem State.advanceSeq_written (s : State) : (s.advanceSeq).written = s.written := rfl
@[simp] theorem State.advanceSeq_trace (s : State) : (s.advanceSeq).trace = s.trace := rfl

/-! `halt` -/

@[simp] theorem State.halt_dim (s : State) : (s.halt).dim = s.dim := rfl
@[simp] theorem State.halt_bright (s : State) : (s.halt).bright = s.bright := rfl
@[simp] theorem State.halt_gen (s : State) : (s.halt).gen = s.gen := rfl
@[simp] theorem State.halt_frameCtr (s : State) : (s.halt).frameCtr = s.frameCtr := rfl
@[simp] theorem State.halt_ballPace (s : State) : (s.halt).ballPace = s.ballPace := rfl
@[simp] theorem State.halt_ballX (s : State) : (s.halt).ballX = s.ballX := rfl
@[simp] theorem State.halt_ballY (s : State) : (s.halt).ballY = s.ballY := rfl
@[simp] theorem State.halt_ballDx (s : State) : (s.halt).ballDx = s.ballDx := rfl
@[simp] theorem State.halt_ballDy (s : State) : (s.halt).ballDy = s.ballDy := rfl
@[simp] theorem State.halt_uop (s : State) : (s.halt).uop = s.uop := rfl
@[simp] theorem State.halt_field (s : State) : (s.halt).field = s.field := rfl
@[simp] theorem State.halt_row (s : State) : (s.halt).row = s.row := rfl
@[simp] theorem State.halt_serBusy (s : State) : (s.halt).serBusy = s.serBusy := rfl
@[simp] theorem State.halt_rowsel (s : State) : (s.halt).rowsel = s.rowsel := rfl
@[simp] theorem State.halt_latch (s : State) : (s.halt).latch = s.latch := rfl
@[simp] theorem State.halt_sdr (s : State) : (s.halt).sdr = s.sdr := rfl
@[simp] theorem State.halt_pressCnt (s : State) : (s.halt).pressCnt = s.pressCnt := rfl
@[simp] theorem State.halt_shift (s : State) : (s.halt).shift = s.shift := rfl
@[simp] theorem State.halt_colout (s : State) : (s.halt).colout = s.colout := rfl
@[simp] theorem State.halt_cfg (s : State) : (s.halt).cfg = s.cfg := rfl
@[simp] theorem State.halt_draws (s : State) : (s.halt).draws = s.draws := rfl
@[simp] theorem State.halt_freeCount (s : State) : (s.halt).freeCount = s.freeCount := rfl
@[simp] theorem State.halt_edges (s : State) : (s.halt).edges = s.edges := rfl
@[simp] theorem State.halt_serialLeft (s : State) : (s.halt).serialLeft = s.serialLeft := rfl
@[simp] theorem State.halt_caller (s : State) : (s.halt).caller = s.caller := rfl
@[simp] theorem State.halt_written (s : State) : (s.halt).written = s.written := rfl
@[simp] theorem State.halt_halted (s : State) : s.halt.halted = true := rfl
@[simp] theorem State.halt_trace (s : State) : s.halt.trace = .halt :: s.trace := rfl

/-! `holdAs` -/

@[simp] theorem State.holdAs_dim (c : Caller) (s : State) : (s.holdAs c).dim = s.dim := by unfold State.holdAs; split <;> rfl
@[simp] theorem State.holdAs_bright (c : Caller) (s : State) : (s.holdAs c).bright = s.bright := by unfold State.holdAs; split <;> rfl
@[simp] theorem State.holdAs_gen (c : Caller) (s : State) : (s.holdAs c).gen = s.gen := by unfold State.holdAs; split <;> rfl
@[simp] theorem State.holdAs_frameCtr (c : Caller) (s : State) : (s.holdAs c).frameCtr = s.frameCtr := by unfold State.holdAs; split <;> rfl
@[simp] theorem State.holdAs_ballPace (c : Caller) (s : State) : (s.holdAs c).ballPace = s.ballPace := by unfold State.holdAs; split <;> rfl
@[simp] theorem State.holdAs_ballX (c : Caller) (s : State) : (s.holdAs c).ballX = s.ballX := by unfold State.holdAs; split <;> rfl
@[simp] theorem State.holdAs_ballY (c : Caller) (s : State) : (s.holdAs c).ballY = s.ballY := by unfold State.holdAs; split <;> rfl
@[simp] theorem State.holdAs_ballDx (c : Caller) (s : State) : (s.holdAs c).ballDx = s.ballDx := by unfold State.holdAs; split <;> rfl
@[simp] theorem State.holdAs_ballDy (c : Caller) (s : State) : (s.holdAs c).ballDy = s.ballDy := by unfold State.holdAs; split <;> rfl
@[simp] theorem State.holdAs_uop (c : Caller) (s : State) : (s.holdAs c).uop = s.uop := by unfold State.holdAs; split <;> rfl
@[simp] theorem State.holdAs_field (c : Caller) (s : State) : (s.holdAs c).field = s.field := by unfold State.holdAs; split <;> rfl
@[simp] theorem State.holdAs_row (c : Caller) (s : State) : (s.holdAs c).row = s.row := by unfold State.holdAs; split <;> rfl
@[simp] theorem State.holdAs_serBusy (c : Caller) (s : State) : (s.holdAs c).serBusy = s.serBusy := by unfold State.holdAs; split <;> rfl
@[simp] theorem State.holdAs_halted (c : Caller) (s : State) : (s.holdAs c).halted = s.halted := by unfold State.holdAs; split <;> rfl
@[simp] theorem State.holdAs_rowsel (c : Caller) (s : State) : (s.holdAs c).rowsel = s.rowsel := by unfold State.holdAs; split <;> rfl
@[simp] theorem State.holdAs_latch (c : Caller) (s : State) : (s.holdAs c).latch = s.latch := by unfold State.holdAs; split <;> rfl
@[simp] theorem State.holdAs_sdr (c : Caller) (s : State) : (s.holdAs c).sdr = s.sdr := by unfold State.holdAs; split <;> rfl
@[simp] theorem State.holdAs_pressCnt (c : Caller) (s : State) : (s.holdAs c).pressCnt = s.pressCnt := by unfold State.holdAs; split <;> rfl
@[simp] theorem State.holdAs_shift (c : Caller) (s : State) : (s.holdAs c).shift = s.shift := by unfold State.holdAs; split <;> rfl
@[simp] theorem State.holdAs_colout (c : Caller) (s : State) : (s.holdAs c).colout = s.colout := by unfold State.holdAs; split <;> rfl
@[simp] theorem State.holdAs_cfg (c : Caller) (s : State) : (s.holdAs c).cfg = s.cfg := by unfold State.holdAs; split <;> rfl
@[simp] theorem State.holdAs_draws (c : Caller) (s : State) : (s.holdAs c).draws = s.draws := by unfold State.holdAs; split <;> rfl
@[simp] theorem State.holdAs_freeCount (c : Caller) (s : State) : (s.holdAs c).freeCount = s.freeCount := by unfold State.holdAs; split <;> rfl
@[simp] theorem State.holdAs_edges (c : Caller) (s : State) : (s.holdAs c).edges = s.edges := by unfold State.holdAs; split <;> rfl
@[simp] theorem State.holdAs_serialLeft (c : Caller) (s : State) : (s.holdAs c).serialLeft = s.serialLeft := by unfold State.holdAs; split <;> rfl
@[simp] theorem State.holdAs_written (c : Caller) (s : State) : (s.holdAs c).written = s.written := by unfold State.holdAs; split <;> rfl
@[simp] theorem State.holdAs_trace (c : Caller) (s : State) : (s.holdAs c).trace = s.trace := by unfold State.holdAs; split <;> rfl
@[simp] theorem State.holdAs_caller (c : Caller) (s : State) :
    (s.holdAs c).caller = if s.serBusy then c else s.caller := by unfold State.holdAs; split <;> rfl

/-! `countEdge` -/

@[simp] theorem State.countEdge_dim (s : State) : (s.countEdge).dim = s.dim := rfl
@[simp] theorem State.countEdge_bright (s : State) : (s.countEdge).bright = s.bright := rfl
@[simp] theorem State.countEdge_gen (s : State) : (s.countEdge).gen = s.gen := rfl
@[simp] theorem State.countEdge_frameCtr (s : State) : (s.countEdge).frameCtr = s.frameCtr := rfl
@[simp] theorem State.countEdge_ballPace (s : State) : (s.countEdge).ballPace = s.ballPace := rfl
@[simp] theorem State.countEdge_ballX (s : State) : (s.countEdge).ballX = s.ballX := rfl
@[simp] theorem State.countEdge_ballY (s : State) : (s.countEdge).ballY = s.ballY := rfl
@[simp] theorem State.countEdge_ballDx (s : State) : (s.countEdge).ballDx = s.ballDx := rfl
@[simp] theorem State.countEdge_ballDy (s : State) : (s.countEdge).ballDy = s.ballDy := rfl
@[simp] theorem State.countEdge_uop (s : State) : (s.countEdge).uop = s.uop := rfl
@[simp] theorem State.countEdge_field (s : State) : (s.countEdge).field = s.field := rfl
@[simp] theorem State.countEdge_row (s : State) : (s.countEdge).row = s.row := rfl
@[simp] theorem State.countEdge_serBusy (s : State) : (s.countEdge).serBusy = s.serBusy := rfl
@[simp] theorem State.countEdge_halted (s : State) : (s.countEdge).halted = s.halted := rfl
@[simp] theorem State.countEdge_rowsel (s : State) : (s.countEdge).rowsel = s.rowsel := rfl
@[simp] theorem State.countEdge_latch (s : State) : (s.countEdge).latch = s.latch := rfl
@[simp] theorem State.countEdge_sdr (s : State) : (s.countEdge).sdr = s.sdr := rfl
@[simp] theorem State.countEdge_pressCnt (s : State) : (s.countEdge).pressCnt = s.pressCnt + 1 := rfl
@[simp] theorem State.countEdge_shift (s : State) : (s.countEdge).shift = s.shift := rfl
@[simp] theorem State.countEdge_colout (s : State) : (s.countEdge).colout = s.colout := rfl
@[simp] theorem State.countEdge_cfg (s : State) : (s.countEdge).cfg = s.cfg := rfl
@[simp] theorem State.countEdge_draws (s : State) : (s.countEdge).draws = s.draws := rfl
@[simp] theorem State.countEdge_freeCount (s : State) : (s.countEdge).freeCount = s.freeCount := rfl
@[simp] theorem State.countEdge_edges (s : State) : (s.countEdge).edges = s.edges := rfl
@[simp] theorem State.countEdge_serialLeft (s : State) : (s.countEdge).serialLeft = s.serialLeft := rfl
@[simp] theorem State.countEdge_caller (s : State) : (s.countEdge).caller = s.caller := rfl
@[simp] theorem State.countEdge_written (s : State) : (s.countEdge).written = s.written := rfl
@[simp] theorem State.countEdge_trace (s : State) : (s.countEdge).trace = s.trace := rfl

/-! `movedBall` -/

@[simp] theorem State.movedBall_dim (s : State) : (s.movedBall).dim = s.dim := rfl
@[simp] theorem State.movedBall_bright (s : State) : (s.movedBall).bright = s.bright := rfl
@[simp] theorem State.movedBall_gen (s : State) : (s.movedBall).gen = s.gen := rfl
@[simp] theorem State.movedBall_frameCtr (s : State) : (s.movedBall).frameCtr = s.frameCtr := rfl
@[simp] theorem State.movedBall_ballPace (s : State) : (s.movedBall).ballPace = s.ballPace := rfl
@[simp] theorem State.movedBall_ballX (s : State) : (s.movedBall).ballX = movePos s.ballX s.ballDx := rfl
@[simp] theorem State.movedBall_ballY (s : State) : (s.movedBall).ballY = movePos s.ballY s.ballDy := rfl
@[simp] theorem State.movedBall_ballDx (s : State) : (s.movedBall).ballDx = s.ballDx := rfl
@[simp] theorem State.movedBall_ballDy (s : State) : (s.movedBall).ballDy = s.ballDy := rfl
@[simp] theorem State.movedBall_uop (s : State) : (s.movedBall).uop = s.uop := rfl
@[simp] theorem State.movedBall_field (s : State) : (s.movedBall).field = s.field := rfl
@[simp] theorem State.movedBall_row (s : State) : (s.movedBall).row = s.row := rfl
@[simp] theorem State.movedBall_serBusy (s : State) : (s.movedBall).serBusy = s.serBusy := rfl
@[simp] theorem State.movedBall_halted (s : State) : (s.movedBall).halted = s.halted := rfl
@[simp] theorem State.movedBall_rowsel (s : State) : (s.movedBall).rowsel = s.rowsel := rfl
@[simp] theorem State.movedBall_latch (s : State) : (s.movedBall).latch = s.latch := rfl
@[simp] theorem State.movedBall_sdr (s : State) : (s.movedBall).sdr = s.sdr := rfl
@[simp] theorem State.movedBall_pressCnt (s : State) : (s.movedBall).pressCnt = s.pressCnt := rfl
@[simp] theorem State.movedBall_shift (s : State) : (s.movedBall).shift = s.shift := rfl
@[simp] theorem State.movedBall_colout (s : State) : (s.movedBall).colout = s.colout := rfl
@[simp] theorem State.movedBall_cfg (s : State) : (s.movedBall).cfg = s.cfg := rfl
@[simp] theorem State.movedBall_draws (s : State) : (s.movedBall).draws = s.draws := rfl
@[simp] theorem State.movedBall_freeCount (s : State) : (s.movedBall).freeCount = s.freeCount := rfl
@[simp] theorem State.movedBall_edges (s : State) : (s.movedBall).edges = s.edges := rfl
@[simp] theorem State.movedBall_serialLeft (s : State) : (s.movedBall).serialLeft = s.serialLeft := rfl
@[simp] theorem State.movedBall_caller (s : State) : (s.movedBall).caller = s.caller := rfl
@[simp] theorem State.movedBall_written (s : State) : (s.movedBall).written = s.written := rfl
@[simp] theorem State.movedBall_trace (s : State) : (s.movedBall).trace = s.trace := rfl

/-! `loadGen` -/

@[simp] theorem State.loadGen_dim (g : Gen) (s : State) : (s.loadGen g).dim = s.dim := rfl
@[simp] theorem State.loadGen_bright (g : Gen) (s : State) : (s.loadGen g).bright = s.bright := rfl
@[simp] theorem State.loadGen_gen (g : Gen) (s : State) : (s.loadGen g).gen = g := rfl
@[simp] theorem State.loadGen_frameCtr (g : Gen) (s : State) : (s.loadGen g).frameCtr = 0#16 := rfl
@[simp] theorem State.loadGen_ballPace (g : Gen) (s : State) : (s.loadGen g).ballPace = s.ballPace := rfl
@[simp] theorem State.loadGen_ballX (g : Gen) (s : State) : (s.loadGen g).ballX = s.ballX := rfl
@[simp] theorem State.loadGen_ballY (g : Gen) (s : State) : (s.loadGen g).ballY = s.ballY := rfl
@[simp] theorem State.loadGen_ballDx (g : Gen) (s : State) : (s.loadGen g).ballDx = s.ballDx := rfl
@[simp] theorem State.loadGen_ballDy (g : Gen) (s : State) : (s.loadGen g).ballDy = s.ballDy := rfl
@[simp] theorem State.loadGen_uop (g : Gen) (s : State) : (s.loadGen g).uop = s.uop := rfl
@[simp] theorem State.loadGen_field (g : Gen) (s : State) : (s.loadGen g).field = s.field := rfl
@[simp] theorem State.loadGen_row (g : Gen) (s : State) : (s.loadGen g).row = s.row := rfl
@[simp] theorem State.loadGen_serBusy (g : Gen) (s : State) : (s.loadGen g).serBusy = s.serBusy := rfl
@[simp] theorem State.loadGen_halted (g : Gen) (s : State) : (s.loadGen g).halted = s.halted := rfl
@[simp] theorem State.loadGen_rowsel (g : Gen) (s : State) : (s.loadGen g).rowsel = s.rowsel := rfl
@[simp] theorem State.loadGen_latch (g : Gen) (s : State) : (s.loadGen g).latch = s.latch := rfl
@[simp] theorem State.loadGen_sdr (g : Gen) (s : State) : (s.loadGen g).sdr = s.sdr := rfl
@[simp] theorem State.loadGen_pressCnt (g : Gen) (s : State) : (s.loadGen g).pressCnt = s.pressCnt := rfl
@[simp] theorem State.loadGen_shift (g : Gen) (s : State) : (s.loadGen g).shift = s.shift := rfl
@[simp] theorem State.loadGen_colout (g : Gen) (s : State) : (s.loadGen g).colout = s.colout := rfl
@[simp] theorem State.loadGen_cfg (g : Gen) (s : State) : (s.loadGen g).cfg = s.cfg := rfl
@[simp] theorem State.loadGen_draws (g : Gen) (s : State) : (s.loadGen g).draws = s.draws := rfl
@[simp] theorem State.loadGen_freeCount (g : Gen) (s : State) : (s.loadGen g).freeCount = s.freeCount := rfl
@[simp] theorem State.loadGen_edges (g : Gen) (s : State) : (s.loadGen g).edges = s.edges := rfl
@[simp] theorem State.loadGen_serialLeft (g : Gen) (s : State) : (s.loadGen g).serialLeft = s.serialLeft := rfl
@[simp] theorem State.loadGen_caller (g : Gen) (s : State) : (s.loadGen g).caller = s.caller := rfl
@[simp] theorem State.loadGen_written (g : Gen) (s : State) : (s.loadGen g).written = s.written := rfl
@[simp] theorem State.loadGen_trace (g : Gen) (s : State) : (s.loadGen g).trace = s.trace := rfl

/-! `loadVel` -/

@[simp] theorem State.loadVel_dim (a : Axis) (v : BitVec 3) (s : State) : (s.loadVel a v).dim = s.dim := by cases a <;> rfl
@[simp] theorem State.loadVel_bright (a : Axis) (v : BitVec 3) (s : State) : (s.loadVel a v).bright = s.bright := by cases a <;> rfl
@[simp] theorem State.loadVel_gen (a : Axis) (v : BitVec 3) (s : State) : (s.loadVel a v).gen = s.gen := by cases a <;> rfl
@[simp] theorem State.loadVel_frameCtr (a : Axis) (v : BitVec 3) (s : State) : (s.loadVel a v).frameCtr = s.frameCtr := by cases a <;> rfl
@[simp] theorem State.loadVel_ballPace (a : Axis) (v : BitVec 3) (s : State) : (s.loadVel a v).ballPace = s.ballPace := by cases a <;> rfl
@[simp] theorem State.loadVel_ballX (a : Axis) (v : BitVec 3) (s : State) : (s.loadVel a v).ballX = s.ballX := by cases a <;> rfl
@[simp] theorem State.loadVel_ballY (a : Axis) (v : BitVec 3) (s : State) : (s.loadVel a v).ballY = s.ballY := by cases a <;> rfl
@[simp] theorem State.loadVel_uop (a : Axis) (v : BitVec 3) (s : State) : (s.loadVel a v).uop = s.uop := by cases a <;> rfl
@[simp] theorem State.loadVel_field (a : Axis) (v : BitVec 3) (s : State) : (s.loadVel a v).field = s.field := by cases a <;> rfl
@[simp] theorem State.loadVel_row (a : Axis) (v : BitVec 3) (s : State) : (s.loadVel a v).row = s.row := by cases a <;> rfl
@[simp] theorem State.loadVel_serBusy (a : Axis) (v : BitVec 3) (s : State) : (s.loadVel a v).serBusy = s.serBusy := by cases a <;> rfl
@[simp] theorem State.loadVel_halted (a : Axis) (v : BitVec 3) (s : State) : (s.loadVel a v).halted = s.halted := by cases a <;> rfl
@[simp] theorem State.loadVel_rowsel (a : Axis) (v : BitVec 3) (s : State) : (s.loadVel a v).rowsel = s.rowsel := by cases a <;> rfl
@[simp] theorem State.loadVel_latch (a : Axis) (v : BitVec 3) (s : State) : (s.loadVel a v).latch = s.latch := by cases a <;> rfl
@[simp] theorem State.loadVel_sdr (a : Axis) (v : BitVec 3) (s : State) : (s.loadVel a v).sdr = s.sdr := by cases a <;> rfl
@[simp] theorem State.loadVel_pressCnt (a : Axis) (v : BitVec 3) (s : State) : (s.loadVel a v).pressCnt = s.pressCnt := by cases a <;> rfl
@[simp] theorem State.loadVel_shift (a : Axis) (v : BitVec 3) (s : State) : (s.loadVel a v).shift = s.shift := by cases a <;> rfl
@[simp] theorem State.loadVel_colout (a : Axis) (v : BitVec 3) (s : State) : (s.loadVel a v).colout = s.colout := by cases a <;> rfl
@[simp] theorem State.loadVel_cfg (a : Axis) (v : BitVec 3) (s : State) : (s.loadVel a v).cfg = s.cfg := by cases a <;> rfl
@[simp] theorem State.loadVel_draws (a : Axis) (v : BitVec 3) (s : State) : (s.loadVel a v).draws = s.draws := by cases a <;> rfl
@[simp] theorem State.loadVel_freeCount (a : Axis) (v : BitVec 3) (s : State) : (s.loadVel a v).freeCount = s.freeCount := by cases a <;> rfl
@[simp] theorem State.loadVel_edges (a : Axis) (v : BitVec 3) (s : State) : (s.loadVel a v).edges = s.edges := by cases a <;> rfl
@[simp] theorem State.loadVel_serialLeft (a : Axis) (v : BitVec 3) (s : State) : (s.loadVel a v).serialLeft = s.serialLeft := by cases a <;> rfl
@[simp] theorem State.loadVel_caller (a : Axis) (v : BitVec 3) (s : State) : (s.loadVel a v).caller = s.caller := by cases a <;> rfl
@[simp] theorem State.loadVel_written (a : Axis) (v : BitVec 3) (s : State) : (s.loadVel a v).written = s.written := by cases a <;> rfl
@[simp] theorem State.loadVel_trace (a : Axis) (v : BitVec 3) (s : State) : (s.loadVel a v).trace = s.trace := by cases a <;> rfl

/-! `countCall` -/

@[simp] theorem State.countCall_dim (s : State) : (s.countCall).dim = s.dim := by unfold State.countCall; split <;> rfl
@[simp] theorem State.countCall_bright (s : State) : (s.countCall).bright = s.bright := by unfold State.countCall; split <;> rfl
@[simp] theorem State.countCall_ballPace (s : State) : (s.countCall).ballPace = s.ballPace := by unfold State.countCall; split <;> rfl
@[simp] theorem State.countCall_ballX (s : State) : (s.countCall).ballX = s.ballX := by unfold State.countCall; split <;> rfl
@[simp] theorem State.countCall_ballY (s : State) : (s.countCall).ballY = s.ballY := by unfold State.countCall; split <;> rfl
@[simp] theorem State.countCall_ballDx (s : State) : (s.countCall).ballDx = s.ballDx := by unfold State.countCall; split <;> rfl
@[simp] theorem State.countCall_ballDy (s : State) : (s.countCall).ballDy = s.ballDy := by unfold State.countCall; split <;> rfl
@[simp] theorem State.countCall_uop (s : State) : (s.countCall).uop = s.uop := by unfold State.countCall; split <;> rfl
@[simp] theorem State.countCall_field (s : State) : (s.countCall).field = s.field := by unfold State.countCall; split <;> rfl
@[simp] theorem State.countCall_row (s : State) : (s.countCall).row = s.row := by unfold State.countCall; split <;> rfl
@[simp] theorem State.countCall_serBusy (s : State) : (s.countCall).serBusy = s.serBusy := by unfold State.countCall; split <;> rfl
@[simp] theorem State.countCall_halted (s : State) : (s.countCall).halted = s.halted := by unfold State.countCall; split <;> rfl
@[simp] theorem State.countCall_rowsel (s : State) : (s.countCall).rowsel = s.rowsel := by unfold State.countCall; split <;> rfl
@[simp] theorem State.countCall_latch (s : State) : (s.countCall).latch = s.latch := by unfold State.countCall; split <;> rfl
@[simp] theorem State.countCall_sdr (s : State) : (s.countCall).sdr = s.sdr := by unfold State.countCall; split <;> rfl
@[simp] theorem State.countCall_pressCnt (s : State) : (s.countCall).pressCnt = s.pressCnt := by unfold State.countCall; split <;> rfl
@[simp] theorem State.countCall_shift (s : State) : (s.countCall).shift = s.shift := by unfold State.countCall; split <;> rfl
@[simp] theorem State.countCall_colout (s : State) : (s.countCall).colout = s.colout := by unfold State.countCall; split <;> rfl
@[simp] theorem State.countCall_cfg (s : State) : (s.countCall).cfg = s.cfg := by unfold State.countCall; split <;> rfl
@[simp] theorem State.countCall_draws (s : State) : (s.countCall).draws = s.draws := by unfold State.countCall; split <;> rfl
@[simp] theorem State.countCall_freeCount (s : State) : (s.countCall).freeCount = s.freeCount := by unfold State.countCall; split <;> rfl
@[simp] theorem State.countCall_edges (s : State) : (s.countCall).edges = s.edges := by unfold State.countCall; split <;> rfl
@[simp] theorem State.countCall_serialLeft (s : State) : (s.countCall).serialLeft = s.serialLeft := by unfold State.countCall; split <;> rfl
@[simp] theorem State.countCall_caller (s : State) : (s.countCall).caller = s.caller := by unfold State.countCall; split <;> rfl
@[simp] theorem State.countCall_written (s : State) : (s.countCall).written = s.written := by unfold State.countCall; split <;> rfl
@[simp] theorem State.countCall_trace (s : State) : (s.countCall).trace = s.trace := by unfold State.countCall; split <;> rfl

end Sys2Proof.Machine
end

