-- ==== Sys2Proof/Laws/Memory.lean ====
section
/-! SUPPORT. The laws of a plane: a read after a write, that a write keeps the canonical form and the zero
bits 31:25, and that two planes in canonical form that read alike are equal. -/

namespace Sys2Proof.Machine

/-! ## Reads after writes -/

@[simp] theorem bufRead_nil (r : Nat) : bufRead [] r = 0#32 := rfl

theorem bufRead_cons (k : Nat) (v : Word) (rest : Buffer) (r : Nat) :
    bufRead ((k, v) :: rest) r = if k = r then v else bufRead rest r := rfl

theorem bufRead_erase (b : Buffer) (r q : Nat) :
    bufRead (bufErase b r) q = if q = r then 0#32 else bufRead b q := by
  induction b with
  | nil => simp [bufErase]
  | cons e rest ih =>
    obtain ⟨k, v⟩ := e
    simp only [bufErase, bufRead_cons]
    split
    · rename_i h; subst h; rw [ih]; split <;> simp_all [eq_comm]
    · rename_i h; simp only [bufRead_cons, ih]; split <;> simp_all

theorem bufErase_keys (b : Buffer) (r : Nat) : ∀ e ∈ bufErase b r, e.1 ≠ r := by
  induction b with
  | nil => simp [bufErase]
  | cons e rest ih =>
    obtain ⟨k, v⟩ := e
    simp only [bufErase]
    split
    · exact ih
    · rename_i h; simpa [h] using fun a c hm => ih (a, c) hm

theorem bufRead_insert (b : Buffer) (r q : Nat) (v : Word) (h : ∀ e ∈ b, e.1 ≠ r) :
    bufRead (bufInsert b r v) q = if q = r then v else bufRead b q := by
  induction b with
  | nil => simp [bufInsert, bufRead_cons, eq_comm]
  | cons e rest ih =>
    obtain ⟨k, u⟩ := e
    have hk : k ≠ r := h (k, u) (by simp)
    simp only [bufInsert]
    split
    · simp [bufRead_cons, eq_comm]
    · rw [bufRead_cons, ih (fun e he => h e (by simp [he])), bufRead_cons]
      by_cases hq : q = r
      · subst hq; simp [hk]
      · simp [hq]

/-- A read after a write: the word written at its row, every other row as it was (R62). -/
theorem bufRead_write (b : Buffer) (r q : Nat) (v : Word) :
    bufRead (bufWrite b r v) q = if q = r then v else bufRead b q := by
  unfold bufWrite
  split
  · rename_i h; rw [bufRead_erase, h]
  · rw [bufRead_insert _ _ _ _ (bufErase_keys b r), bufRead_erase]
    split <;> rfl

/-! ## The canonical form -/

theorem bufWfFrom_cons (lo k : Nat) (v : Word) (rest : Buffer) :
    bufWfFrom lo ((k, v) :: rest) = true ↔
      lo ≤ k ∧ k ≤ 24 ∧ v ≠ 0#32 ∧ bufWfFrom (k + 1) rest = true := by
  simp [bufWfFrom, and_assoc]

theorem bufWfFrom_mono (b : Buffer) {lo lo' : Nat} (h : lo' ≤ lo) (hb : bufWfFrom lo b = true) :
    bufWfFrom lo' b = true := by
  cases b with
  | nil => rfl
  | cons e rest =>
    obtain ⟨k, v⟩ := e
    rw [bufWfFrom_cons] at hb ⊢
    exact ⟨by omega, hb.2⟩

theorem bufWfFrom_erase (b : Buffer) (r lo : Nat) (hb : bufWfFrom lo b = true) :
    bufWfFrom lo (bufErase b r) = true := by
  induction b generalizing lo with
  | nil => rfl
  | cons e rest ih =>
    obtain ⟨k, v⟩ := e
    rw [bufWfFrom_cons] at hb
    simp only [bufErase]
    split
    · exact bufWfFrom_mono _ (by omega) (ih (k + 1) hb.2.2.2)
    · rw [bufWfFrom_cons]; exact ⟨hb.1, hb.2.1, hb.2.2.1, ih _ hb.2.2.2⟩

theorem bufWfFrom_insert (b : Buffer) (r lo : Nat) (v : Word) (hb : bufWfFrom lo b = true)
    (hk : ∀ e ∈ b, e.1 ≠ r) (hr : r ≤ 24) (hlo : lo ≤ r) (hv : v ≠ 0#32) :
    bufWfFrom lo (bufInsert b r v) = true := by
  induction b generalizing lo with
  | nil => simp [bufInsert, bufWfFrom, hr, hlo, hv]
  | cons e rest ih =>
    obtain ⟨k, u⟩ := e
    have hne : k ≠ r := hk (k, u) (by simp)
    rw [bufWfFrom_cons] at hb
    simp only [bufInsert]
    split
    · rw [bufWfFrom_cons, bufWfFrom_cons]; exact ⟨hlo, hr, hv, by omega, hb.2⟩
    · rw [bufWfFrom_cons]
      exact ⟨hb.1, hb.2.1, hb.2.2.1, ih _ hb.2.2.2 (fun e he => hk e (by simp [he])) (by omega)⟩

/-- A write of a row in 0..24 keeps the canonical form. -/
theorem bufWf_write (b : Buffer) (r : Nat) (v : Word) (hb : bufWf b = true) (hr : r ≤ 24) :
    bufWf (bufWrite b r v) = true := by
  unfold bufWrite bufWf at *
  split
  · exact bufWfFrom_erase b r 0 hb
  · rename_i hv
    exact bufWfFrom_insert _ r 0 v (bufWfFrom_erase b r 0 hb) (bufErase_keys b r) hr (by omega) hv

theorem bufRead_below (b : Buffer) (lo r : Nat) (hb : bufWfFrom lo b = true) (h : r < lo) :
    bufRead b r = 0#32 := by
  induction b generalizing lo with
  | nil => rfl
  | cons e rest ih =>
    obtain ⟨k, v⟩ := e
    rw [bufWfFrom_cons] at hb
    rw [bufRead_cons, if_neg (by omega)]
    exact ih (k + 1) hb.2.2.2 (by omega)

theorem bufWfFrom_ext (b c : Buffer) (lo : Nat) (hb : bufWfFrom lo b = true) (hc : bufWfFrom lo c = true)
    (h : ∀ r, bufRead b r = bufRead c r) : b = c := by
  induction b generalizing c lo with
  | nil =>
    cases c with
    | nil => rfl
    | cons e rest =>
      obtain ⟨k, v⟩ := e
      rw [bufWfFrom_cons] at hc
      have := h k
      simp only [bufRead_nil, bufRead_cons, if_pos] at this
      exact absurd this.symm hc.2.2.1
  | cons e rest ih =>
    obtain ⟨k, v⟩ := e
    rw [bufWfFrom_cons] at hb
    cases c with
    | nil =>
      have := h k
      simp only [bufRead_nil, bufRead_cons, if_pos] at this
      exact absurd this hb.2.2.1
    | cons e' rest' =>
      obtain ⟨k', v'⟩ := e'
      rw [bufWfFrom_cons] at hc
      have hk : k = k' := by
        rcases Nat.lt_trichotomy k k' with hlt | heq | hgt
        · have := h k
          rw [bufRead_cons, if_pos rfl, bufRead_cons, if_neg (by omega),
            bufRead_below rest' (k' + 1) k hc.2.2.2 (by omega)] at this
          exact absurd this hb.2.2.1
        · exact heq
        · have := h k'
          rw [bufRead_cons, if_neg (by omega), bufRead_cons, if_pos rfl,
            bufRead_below rest (k + 1) k' hb.2.2.2 (by omega)] at this
          exact absurd this.symm hc.2.2.1
      subst hk
      have hv : v = v' := by simpa [bufRead_cons] using h k
      subst hv
      congr 1
      refine ih rest' (k + 1) hb.2.2.2 hc.2.2.2 fun r => ?_
      by_cases hr : r < k + 1
      · rw [bufRead_below rest _ r hb.2.2.2 hr, bufRead_below rest' _ r hc.2.2.2 hr]
      · have := h r
        rwa [bufRead_cons, if_neg (by omega), bufRead_cons, if_neg (by omega)] at this

/-- Two planes in canonical form that read alike are the same data. -/
theorem bufWf_ext {b c : Buffer} (hb : bufWf b = true) (hc : bufWf c = true)
    (h : ∀ r, bufRead b r = bufRead c r) : b = c :=
  bufWfFrom_ext b c 0 hb hc h

/-! ## Bits 31:25 -/

theorem bufLow25_cons (k : Nat) (v : Word) (rest : Buffer) :
    bufLow25 ((k, v) :: rest) = true ↔ v.extractLsb' 25 7 = 0#7 ∧ bufLow25 rest = true := by
  simp [bufLow25]

/-- Every word read has bits 31:25 zero (R23). -/
theorem bufLow25_read (b : Buffer) (r : Nat) (hb : bufLow25 b = true) :
    (bufRead b r).extractLsb' 25 7 = 0#7 := by
  induction b with
  | nil => simp
  | cons e rest ih =>
    obtain ⟨k, v⟩ := e
    rw [bufLow25_cons] at hb
    rw [bufRead_cons]
    split
    · exact hb.1
    · exact ih hb.2

theorem bufLow25_erase (b : Buffer) (r : Nat) (hb : bufLow25 b = true) : bufLow25 (bufErase b r) = true := by
  induction b with
  | nil => rfl
  | cons e rest ih =>
    obtain ⟨k, v⟩ := e
    rw [bufLow25_cons] at hb
    simp only [bufErase]
    split
    · exact ih hb.2
    · rw [bufLow25_cons]; exact ⟨hb.1, ih hb.2⟩

theorem bufLow25_insert (b : Buffer) (r : Nat) (v : Word) (hb : bufLow25 b = true)
    (hv : v.extractLsb' 25 7 = 0#7) : bufLow25 (bufInsert b r v) = true := by
  induction b with
  | nil => simp [bufInsert, bufLow25, hv]
  | cons e rest ih =>
    obtain ⟨k, u⟩ := e
    rw [bufLow25_cons] at hb
    simp only [bufInsert]
    split
    · rw [bufLow25_cons, bufLow25_cons]; exact ⟨hv, hb⟩
    · rw [bufLow25_cons]; exact ⟨hb.1, ih hb.2⟩

/-- A write of a word with bits 31:25 zero keeps them zero in the plane. -/
theorem bufLow25_write (b : Buffer) (r : Nat) (v : Word) (hb : bufLow25 b = true)
    (hv : v.extractLsb' 25 7 = 0#7) : bufLow25 (bufWrite b r v) = true := by
  unfold bufWrite
  split
  · exact bufLow25_erase b r hb
  · exact bufLow25_insert _ r v (bufLow25_erase b r hb) hv

/-! ## Words of the state -/

/-- A read after a write through the state: its own word, every other row and the other plane as they were. -/
theorem State.word_setWord (p q : Plane) (r k : Nat) (v : Word) (s : State) :
    (s.setWord p r v).word q k = if q = p ∧ k = r then v else s.word q k := by
  cases p <;> cases q <;>
    simp [State.word, State.setWord, State.plane, State.setPlane, bufRead_write]

end Sys2Proof.Machine
end

