-- ==== Sys2Proof/Laws/Ops.lean ====
section
/-! SUPPORT. What each shared operation can do, said once: sequencing, guards, buffer access, the output
locations and the step forms of the row transmitter, the addresser and the renderer. -/

namespace Sys2Proof.Machine

/-! ## Sequencing -/

@[simp] theorem andThen_next (s : State) (k : State → Result) : andThen (.next s) k = k s := rfl
@[simp] theorem andThen_fault (f : Fault) (k : State → Result) : andThen (.fault f) k = .fault f := rfl
@[simp] theorem andThen_refused (r : Refusal) (k : State → Result) : andThen (.refused r) k = .refused r := rfl

theorem andThen_eq_next {x : Result} {k : State → Result} {t : State} :
    andThen x k = .next t ↔ ∃ s, x = .next s ∧ k s = .next t := by
  cases x <;> simp

/-- A next state given is the next state named. -/
theorem next_eq_next {s t : State} : (Host.Outcome.next s : Result) = .next t ↔ t = s := by
  rw [Host.Outcome.next.injEq]; exact ⟨Eq.symm, Eq.symm⟩

theorem andThen_next_right (x : Result) : andThen x .next = x := by cases x <;> rfl

theorem andThen_assoc (x : Result) (k l : State → Result) :
    andThen (andThen x k) l = andThen x (fun s => andThen (k s) l) := by cases x <;> rfl

@[simp] theorem runAll_nil (s : State) : runAll [] s = .next s := rfl
@[simp] theorem runAll_cons (f : State → Result) (fs : List (State → Result)) (s : State) :
    runAll (f :: fs) s = andThen (f s) (runAll fs) := rfl

theorem runAll_append (fs gs : List (State → Result)) (s : State) :
    runAll (fs ++ gs) s = andThen (runAll fs s) (runAll gs) := by
  induction fs generalizing s with
  | nil => rfl
  | cons f fs ih =>
    simp only [List.cons_append, runAll_cons, andThen_assoc]
    congr 1
    exact funext ih

/-- What every operation of a list keeps, the whole list keeps. -/
theorem runAll_keeps {P : State → Prop} (fs : List (State → Result))
    (h : ∀ f ∈ fs, ∀ s t, P s → f s = .next t → P t) {s t : State} (hs : P s) (hr : runAll fs s = .next t) : P t := by
  induction fs generalizing s with
  | nil => simp at hr; exact hr ▸ hs
  | cons f fs ih =>
    rw [runAll_cons, andThen_eq_next] at hr
    obtain ⟨u, hu, hr⟩ := hr
    exact ih (fun g hg => h g (by simp [hg])) (h f (by simp) s u hs hu) hr

/-- A byte in flight leaves the rest undone. -/
theorem runHeld_busy (fs : List (State → Result)) {s : State} (h : s.serBusy = true) :
    runHeld fs s = .next s := by
  cases fs <;> simp [runHeld, h]

@[simp] theorem runHeld_nil (s : State) : runHeld [] s = .next s := rfl

theorem runHeld_cons (f : State → Result) (fs : List (State → Result)) {s : State} (h : s.serBusy = false) :
    runHeld (f :: fs) s = andThen (f s) (runHeld fs) := by simp [runHeld, h]

theorem runHeld_append (fs gs : List (State → Result)) (s : State) :
    runHeld (fs ++ gs) s = andThen (runHeld fs s) (runHeld gs) := by
  induction fs generalizing s with
  | nil => rfl
  | cons f fs ih =>
    cases h : s.serBusy
    · rw [List.cons_append, runHeld_cons _ _ h, runHeld_cons _ _ h, andThen_assoc]
      congr 1
      exact funext ih
    · rw [runHeld_busy _ h, runHeld_busy _ h, andThen_next, runHeld_busy _ h]

/-- What every operation of a list keeps, as much of the list as runs keeps. -/
theorem runHeld_keeps {P : State → Prop} (fs : List (State → Result))
    (h : ∀ f ∈ fs, ∀ s t, P s → f s = .next t → P t) {s t : State} (hs : P s) (hr : runHeld fs s = .next t) :
    P t := by
  induction fs generalizing s with
  | nil => simp at hr; exact hr ▸ hs
  | cons f fs ih =>
    cases hb : s.serBusy
    · rw [runHeld_cons _ _ hb, andThen_eq_next] at hr
      obtain ⟨u, hu, hr⟩ := hr
      exact ih (fun g hg => h g (by simp [hg])) (h f (by simp) s u hs hu) hr
    · rw [runHeld_busy _ hb, next_eq_next] at hr
      exact hr ▸ hs

@[simp] theorem always_eq (f : State → State) (s : State) : always f s = .next (f s) := rfl

/-! ## Guards -/

theorem running_of {k : State → Result} {s : State} (h : s.halted = false) : running k s = k s := by
  simp [running, h]

theorem running_halted {k : State → Result} {s : State} (h : s.halted = true) :
    running k s = .fault .halted := by simp [running, h]

theorem running_eq_next {k : State → Result} {s t : State} :
    running k s = .next t ↔ s.halted = false ∧ k s = .next t := by
  cases h : s.halted <;> simp [running, h]

theorem require_of {b : Bool} {r : Refusal} {k : State → Result} {s : State} (h : b = true) :
    require b r k s = k s := by simp [require, h]

theorem require_not {b : Bool} {r : Refusal} {k : State → Result} {s : State} (h : b = false) :
    require b r k s = .refused r := by simp [require, h]

theorem require_eq_next {b : Bool} {r : Refusal} {k : State → Result} {s t : State} :
    require b r k s = .next t ↔ b = true ∧ k s = .next t := by
  cases b <;> simp [require]

theorem whenIdle_eq_next {k : State → Result} {s t : State} :
    whenIdle k s = .next t ↔ s.serBusy = false ∧ k s = .next t := by
  simp [whenIdle, require_eq_next]

theorem atUop_eq_next {u : BitVec 4} {k : State → Result} {s t : State} :
    atUop u k s = .next t ↔ s.uop = u ∧ k s = .next t := by
  simp [atUop, require_eq_next]

theorem atSeq_eq_next {u : BitVec 4} {f : BitVec 2} {r : BitVec 5} {k : State → Result} {s t : State} :
    atSeq u f r k s = .next t ↔ (s.uop = u ∧ s.field = f ∧ s.row = r) ∧ k s = .next t := by
  simp [atSeq, require_eq_next, and_assoc]

theorem whenIdle_of {k : State → Result} {s : State} (h : s.serBusy = false) : whenIdle k s = k s := by
  simp [whenIdle, require, h]

theorem atUop_of {u : BitVec 4} {k : State → Result} {s : State} (h : s.uop = u) : atUop u k s = k s := by
  simp [atUop, require, h]

theorem atSeq_of {u : BitVec 4} {f : BitVec 2} {r : BitVec 5} {k : State → Result} {s : State}
    (hu : s.uop = u) (hf : s.field = f) (hr : s.row = r) : atSeq u f r k s = k s := by
  simp [atSeq, require, hu, hf, hr]

/-! ## Buffer access -/

theorem memRead_eq_next {p : Plane} {r : Nat} {k : Word → State → Result} {s t : State} :
    memRead p r k s = .next t ↔ r ≤ 24 ∧ k (s.word p r) s = .next t := by
  by_cases h : r ≤ 24 <;> simp [memRead, h]

theorem modWord_of {p : Plane} {r : Nat} {f : Word → Word} {s : State} (h : r ≤ 24) :
    modWord p r f s = .next (s.setWord p r (f (s.word p r))) := by
  simp [modWord, memRead, memWrite, h]

/-- All a read-modify-write can do: the row is in range and that one word is replaced. -/
theorem modWord_eq_next {p : Plane} {r : Nat} {f : Word → Word} {s t : State} :
    modWord p r f s = .next t ↔ r ≤ 24 ∧ t = s.setWord p r (f (s.word p r)) := by
  by_cases h : r ≤ 24 <;> simp [modWord, memRead, memWrite, h, eq_comm (a := t)]

/-- All a selection can do: the port was 0 and now holds the code. -/
theorem selectCode_eq_next {v : Byte} {s t : State} :
    selectCode v s = .next t ↔ s.rowsel = 0x00#8 ∧ t = s.writeRowsel v := by
  simp [selectCode, require_eq_next, eq_comm (a := t)]

/-! ## The serial link -/

theorem frozen_congr {s t : State} (h : t.serialLeft = s.serialLeft) : t.frozen = s.frozen := by
  simp [State.frozen, h]

theorem completes_congr {n : Nat} {s t : State} (h : t.serialLeft = s.serialLeft) :
    t.completes n = s.completes n := by
  simp [State.completes, h]

theorem completes_mono {m n : Nat} {s : State} (h : s.completes n = true) (hm : m ≤ n) : s.completes m = true := by
  unfold State.completes at *
  split <;> simp_all; omega

/-- A primitive that completes one more byte is not frozen. -/
theorem frozen_of_completes {n : Nat} {s : State} (h : s.completes (n + 1) = true) : s.frozen = false := by
  cases hl : s.serialLeft with
  | none => simp [State.frozen, hl]
  | some k => simp [State.completes, hl] at h; simp [State.frozen, hl]; omega

theorem completes_shiftByte {n : Nat} {s : State} (h : s.completes (n + 1) = true) :
    s.shiftByte.completes n = true := by
  cases hl : s.serialLeft with
  | none => simp [State.completes, hl]
  | some k => simp [State.completes, hl] at h ⊢; omega

/-- All the completion of a byte in flight can do. -/
theorem tryShift_of {s : State} (h : s.frozen = false) : s.tryShift = s.shiftByte := by simp [State.tryShift, h]

theorem tryShift_frozen {s : State} (h : s.frozen = true) : s.tryShift = s := by simp [State.tryShift, h]

/-- What bytes leave in the driver chain (R42). -/
def pushBytes (bs : List Byte) (w : Word) : Word := bs.foldl (fun v b => v.extractLsb' 0 24 ++ b) w

/-- The state once bytes are sent and all complete. -/
def State.sentBytes (bs : List Byte) (s : State) : State :=
  { s with sdr := bs.getLast?.getD s.sdr, shift := pushBytes bs s.shift,
           serialLeft := s.serialLeft.map (fun n => n - bs.length), trace := (bs.map .byte).reverse ++ s.trace }

@[simp] theorem State.sentBytes_serBusy (bs : List Byte) (s : State) : (s.sentBytes bs).serBusy = s.serBusy := rfl

theorem sentBytes_nil (s : State) : s.sentBytes [] = s := by
  cases s; simp [State.sentBytes, pushBytes]

/-- Sending a first byte and then the rest is sending them all. -/
theorem sentBytes_cons (b : Byte) (bs : List Byte) {s : State} (h : s.serBusy = false) :
    (s.startByte b).shiftByte.sentBytes bs = s.sentBytes (b :: bs) := by
  cases s
  simp only at h
  subst h
  simp [State.sentBytes, State.startByte, State.shiftByte, State.emit, State.raiseBusy, State.clearBusy, pushBytes,
    List.getLast?_cons]
  rename_i l _ _ _
  cases l <;> simp; omega

/-- Bytes that all complete (R249). -/
theorem sendBytes_of (bs : List Byte) {s : State} (hb : s.serBusy = false) (hc : s.completes bs.length = true) :
    s.sendBytes bs = s.sentBytes bs := by
  induction bs generalizing s with
  | nil => exact (sentBytes_nil s).symm
  | cons b bs ih =>
    have hf : (s.startByte b).frozen = false := (frozen_congr rfl).trans (frozen_of_completes hc)
    have hc' : (s.startByte b).shiftByte.completes bs.length = true := completes_shiftByte ((completes_congr rfl).trans hc)
    rw [State.sendBytes, State.ifIdle, hb, if_neg (by decide), State.sendByte, tryShift_of hf, ih rfl hc',
      sentBytes_cons _ _ hb]

/-- A byte in flight: no more are sent. -/
theorem sendBytes_busy (bs : List Byte) {s : State} (h : s.serBusy = true) : s.sendBytes bs = s := by
  induction bs with
  | nil => rfl
  | cons b bs ih => rw [State.sendBytes, State.ifIdle, if_pos h, ih]

/-- Bytes of which the primitive completes the first `k` only: the next one stays in flight (R227). -/
theorem sendBytes_hung (bs : List Byte) {k : Nat} {s : State} (hb : s.serBusy = false)
    (hl : s.serialLeft = some k) (hk : k < bs.length) :
    s.sendBytes bs = (s.sentBytes (bs.take k)).startByte bs[k] := by
  induction bs generalizing s k with
  | nil => simp at hk
  | cons b bs ih =>
    rw [State.sendBytes, State.ifIdle, hb, if_neg (by decide), State.sendByte]
    cases k with
    | zero =>
      rw [tryShift_frozen (by simp [State.frozen, hl]), sendBytes_busy _ rfl]
      simp [sentBytes_nil]
    | succ k =>
      rw [tryShift_of (by simp [State.frozen, hl]), ih (k := k) rfl (by simp [hl]) (by simpa using hk)]
      simp [sentBytes_cons _ _ hb]

/-- A row burst whose four bytes complete (R82, R114). -/
theorem sendRow_of {b0 b1 b2 b3 : Byte} {s : State} (hb : s.serBusy = false) (hc : s.completes 4 = true) :
    s.sendRow b0 b1 b2 b3 = (s.sentBytes [b0, b1, b2, b3]).latchPulse := by
  rw [State.sendRow, sendBytes_of [b0, b1, b2, b3] hb hc, State.ifIdle, if_neg]
  simp [State.sentBytes, hb]

/-- A row burst held at byte `k`: no latch pulse. -/
theorem sendRow_hung {b0 b1 b2 b3 : Byte} {k : Nat} {s : State} (hb : s.serBusy = false)
    (hl : s.serialLeft = some k) (hk : k < 4) :
    s.sendRow b0 b1 b2 b3
      = (s.sentBytes ([b0, b1, b2, b3].take k)).startByte ([b0, b1, b2, b3][k]'(by simpa using hk)) := by
  rw [State.sendRow, sendBytes_hung _ hb hl (by simpa using hk), State.ifIdle, if_pos]
  rfl

/-! ## The power-down -/

/-- A power-down with no byte in flight whose sixteen bytes complete (R215). -/
theorem powerDown_of {s : State} (hb : s.serBusy = false) (hc : s.completes (4 * Config.pdZeroRows) = true) :
    s.powerDown
      = (((s.writeRowsel 0x00#8).sentBytes (List.replicate (4 * Config.pdZeroRows) 0x00#8)).latchPulse).halt := by
  have hw : (s.writeRowsel 0x00#8).serBusy = false := hb
  unfold State.powerDown
  rw [show s.finishByte = s by simp [State.finishByte, hb]]
  simp only [State.ifIdle, hb, Bool.false_eq_true, if_false]
  rw [sendBytes_of _ hw (by rw [List.length_replicate]; exact (completes_congr rfl).trans hc)]
  simp [State.holdAs, hb]

/-- A power-down with no byte in flight, held at its byte `k` (R227). -/
theorem powerDown_hung {k : Nat} {s : State} (hb : s.serBusy = false) (hl : s.serialLeft = some k)
    (hk : k < 4 * Config.pdZeroRows) :
    s.powerDown = (((s.writeRowsel 0x00#8).sentBytes (List.replicate k 0x00#8)).startByte 0x00#8).holdAs .handler := by
  have hw : (s.writeRowsel 0x00#8).serBusy = false := hb
  unfold State.powerDown
  rw [show s.finishByte = s by simp [State.finishByte, hb]]
  simp only [State.ifIdle, hb, Bool.false_eq_true, if_false]
  rw [sendBytes_hung _ hw hl (by simpa using hk)]
  simp only [List.take_replicate, List.getElem_replicate, Nat.min_eq_left (Nat.le_of_lt hk),
    State.startByte_serBusy, if_true]

/-- A byte in flight that completes is completed first. -/
theorem powerDown_busy {s : State} (hb : s.serBusy = true) (hf : s.frozen = false) :
    s.powerDown = s.shiftByte.powerDown := by
  have h1 : s.finishByte = s.shiftByte := by simp [State.finishByte, hb, tryShift_of hf]
  have h2 : s.shiftByte.finishByte = s.shiftByte := by simp [State.finishByte]
  simp only [State.powerDown, h1, h2]

/-- One that never completes holds the handler before it has done anything. -/
theorem powerDown_frozen {s : State} (hb : s.serBusy = true) (hf : s.frozen = true) :
    s.powerDown = { s with caller := .handler } := by
  simp only [State.powerDown, State.finishByte, hb, if_true, tryShift_frozen hf, State.ifIdle, sendBytes_busy,
    State.holdAs]

/-- `t` is `s` but for what the bytes of the link, the latch, the port and the halt write. -/
def LinkOnly (s t : State) : Prop :=
  t = { s with serBusy := t.serBusy, halted := t.halted, rowsel := t.rowsel, latch := t.latch, sdr := t.sdr,
               shift := t.shift, colout := t.colout, serialLeft := t.serialLeft, caller := t.caller,
               trace := t.trace }

theorem LinkOnly.refl (s : State) : LinkOnly s s := rfl

theorem LinkOnly.trans {s t u : State} (h : LinkOnly s t) (k : LinkOnly t u) : LinkOnly s u := by
  unfold LinkOnly at *; rw [k, h]

theorem linkOnly_ifIdle {f : State → State} {s : State} (h : LinkOnly s (f s)) : LinkOnly s (s.ifIdle f) := by
  unfold State.ifIdle; split
  · exact .refl s
  · exact h

theorem linkOnly_tryShift (s : State) : LinkOnly s s.tryShift := by
  unfold State.tryShift; split <;> rfl

theorem linkOnly_sendBytes (bs : List Byte) (s : State) : LinkOnly s (s.sendBytes bs) := by
  induction bs generalizing s with
  | nil => exact .refl s
  | cons b bs ih =>
    have h : LinkOnly s (s.sendByte b) := LinkOnly.trans (t := s.startByte b) rfl (linkOnly_tryShift _)
    exact (linkOnly_ifIdle h).trans (ih _)

theorem linkOnly_holdAs (c : Caller) (s : State) : LinkOnly s (s.holdAs c) := by
  unfold State.holdAs; split <;> rfl

/-- All a row burst can write. -/
theorem linkOnly_sendRow (b0 b1 b2 b3 : Byte) (s : State) : LinkOnly s (s.sendRow b0 b1 b2 b3) :=
  (linkOnly_sendBytes _ s).trans (linkOnly_ifIdle rfl)

/-- All the power-down can write, wherever it stops (R216). -/
theorem linkOnly_powerDown (s : State) : LinkOnly s s.powerDown := by
  have h1 : LinkOnly s s.finishByte := by
    unfold State.finishByte; split
    · exact linkOnly_tryShift s
    · exact .refl s
  have h2 : ∀ u : State, LinkOnly u (u.ifIdle (State.writeRowsel 0x00#8)) := fun _ => linkOnly_ifIdle rfl
  have h3 : ∀ u : State, LinkOnly u (u.ifIdle State.latchPulse) := fun _ => linkOnly_ifIdle rfl
  have h4 : ∀ u : State, LinkOnly u (u.ifIdle State.halt) := fun _ => linkOnly_ifIdle rfl
  exact ((((h1.trans (h2 _)).trans (linkOnly_sendBytes _ _)).trans (h3 _)).trans (h4 _)).trans (linkOnly_holdAs _ _)

/-! ## The step forms -/

theorem blankStep_eq_next {s t : State} :
    blankStep s = .next t ↔ s.halted = false ∧ s.uop = 0#4 ∧ t = (s.writeRowsel 0x00#8).setUop 1#4 := by
  simp [blankStep, running_eq_next, atUop_eq_next, eq_comm (a := t)]

theorem txStep_eq_next {k : Nat} {s t : State} :
    txStep k s = .next t ↔ s.halted = false ∧ s.uop = BitVec.ofNat 4 (2 * k + 1) ∧ s.serBusy = false
      ∧ s.row.toNat ≤ 24
      ∧ t = (s.startByte (byteOf k (s.word (planeOf s.field) s.row.toNat))).setUop (BitVec.ofNat 4 (2 * k + 2)) := by
  simp [txStep, running_eq_next, atUop_eq_next, whenIdle_eq_next, memRead_eq_next, eq_comm (a := t)]

theorem waitStep_eq_next {k : Nat} {s t : State} :
    waitStep k s = .next t ↔ s.halted = false ∧ s.uop = BitVec.ofNat 4 (2 * k + 2)
      ∧ t = if s.serBusy then s else s.setUop (BitVec.ofNat 4 (2 * k + 3)) := by
  cases h : s.serBusy <;> simp [waitStep, running_eq_next, atUop_eq_next, h, eq_comm (a := t)]

theorem latchSetStep_eq_next {s t : State} :
    latchSetStep s = .next t ↔ s.halted = false ∧ s.uop = 9#4 ∧ s.serBusy = false
      ∧ t = s.latchSet.setUop 10#4 := by
  simp [latchSetStep, running_eq_next, atUop_eq_next, whenIdle_eq_next, eq_comm (a := t)]

theorem latchClrStep_eq_next {s t : State} :
    latchClrStep s = .next t ↔ s.halted = false ∧ s.uop = 10#4 ∧ s.latch = true
      ∧ t = s.latchClear.setUop 11#4 := by
  simp [latchClrStep, running_eq_next, atUop_eq_next, require_eq_next, eq_comm (a := t)]

theorem selRowStep_eq_next {s t : State} :
    selRowStep s = .next t ↔ s.halted = false ∧ s.uop = 11#4 ∧ s.row.toNat ≤ 24 ∧ s.rowsel = 0x00#8
      ∧ t = (s.writeRowsel (rowCode s.row.toNat)).setUop 12#4 := by
  simp only [selRowStep, running_eq_next, atUop_eq_next, require_eq_next, andThen_eq_next, selectCode_eq_next,
    decide_eq_true_eq, always_eq, Host.Outcome.next.injEq]
  constructor
  · rintro ⟨h, hu, hr, _, ⟨hs, rfl⟩, rfl⟩; exact ⟨h, hu, hr, hs, rfl⟩
  · rintro ⟨h, hu, hr, hs, rfl⟩; exact ⟨h, hu, hr, _, ⟨hs, rfl⟩, rfl⟩

theorem settleStep_eq_next {s t : State} :
    settleStep s = .next t ↔ s.halted = false ∧ s.uop = 12#4 ∧ s.row.toNat ≤ 24
      ∧ t = (s.emit .delay).advanceSeq := by
  simp [settleStep, running_eq_next, atUop_eq_next, require_eq_next, eq_comm (a := t)]

theorem transmitStep_eq_next {b0 b1 b2 b3 : Byte} {s t : State} :
    transmitStep b0 b1 b2 b3 s = .next t ↔ s.halted = false ∧ s.serBusy = false
      ∧ t = (s.sendRow b0 b1 b2 b3).holdAs .written := by
  simp [transmitStep, running_eq_next, whenIdle_eq_next, eq_comm (a := t)]

theorem codeStep_eq_next {v : Byte} {s t : State} :
    codeStep v s = .next t ↔ s.halted = false ∧ s.rowsel = 0x00#8 ∧ t = s.writeRowsel v := by
  simp [codeStep, running_eq_next, selectCode_eq_next]

theorem atickStep_eq_next {s t : State} :
    atickStep s = .next t ↔ s.halted = false ∧ (s.uop = 13#4 ∧ s.field = 0#2 ∧ s.row = 0#5)
      ∧ s.frameCtr.toNat < budget s.gen
      ∧ ∃ u, runGenerator s = .next u ∧ t = u.countCall.setSeq 0#4 0#2 0#5 := by
  simp [atickStep, running_eq_next, atSeq_eq_next, require_eq_next, andThen_eq_next, eq_comm (a := t)]

/-! ## The generators -/

/-- `t` is `s` but for the planes' contents. -/
def BuffersOnly (s t : State) : Prop := t = { s with dim := t.dim, bright := t.bright }

theorem BuffersOnly.refl (s : State) : BuffersOnly s s := rfl

theorem BuffersOnly.trans {s t u : State} (h : BuffersOnly s t) (k : BuffersOnly t u) : BuffersOnly s u := by
  unfold BuffersOnly at *; rw [k, h]

theorem buffersOnly_setWord (p : Plane) (r : Nat) (v : Word) (s : State) : BuffersOnly s (s.setWord p r v) := by
  cases p <;> rfl

theorem eraseRow_of {i : Nat} {s : State} (h : s.ballY.toNat + i ≤ 24) :
    eraseRow i s = .next ((s.setWord .dim (s.ballY.toNat + i)
        (s.word .dim (s.ballY.toNat + i) &&& ~~~ eraseMask s.ballX.toNat)).setWord .bright (s.ballY.toNat + i)
        (s.word .bright (s.ballY.toNat + i) &&& ~~~ eraseMask s.ballX.toNat)) := by
  rw [eraseRow, modWord_of h, andThen_next, State.setWord_ballY, State.setWord_ballX, modWord_of h]
  simp [State.word_setWord]

theorem drawRow_of {i : Nat} {s : State} (h : s.ballY.toNat + i ≤ 24) :
    drawRow i s = .next ((s.setWord .dim (s.ballY.toNat + i)
        (s.word .dim (s.ballY.toNat + i) ||| placeGlyph (glyphRow s.cfg.glyphDim i) s.ballX.toNat)).setWord
        .bright (s.ballY.toNat + i)
        (s.word .bright (s.ballY.toNat + i) ||| placeGlyph (glyphRow s.cfg.glyphBright i) s.ballX.toNat)) := by
  rw [drawRow, modWord_of h, andThen_next, State.setWord_ballY, State.setWord_ballX, State.setWord_cfg,
    modWord_of h]
  simp [State.word_setWord]

theorem bounceBall_eq_next {s t : State} :
    bounceBall s = .next t ↔ ballOk s = true ∧ t = s.bounceX.bounceY := by
  simp [bounceBall, whenBallOk, require_eq_next, eq_comm (a := t)]

theorem moveBall_eq_next {s t : State} :
    moveBall s = .next t ↔ ballOk s = true ∧ t = s.movedBall := by
  simp [moveBall, whenBallOk, require_eq_next, eq_comm (a := t)]

theorem toggleBit_eq (p : Plane) (s : State) :
    toggleBit p s = .next (s.afterDraw.afterDraw.setWord p (s.drawn % 25)
      (s.afterDraw.afterDraw.word p (s.drawn % 25) ^^^ bitMask (s.afterDraw.drawn % 25))) := by
  unfold toggleBit
  exact modWord_of (by omega)

/-! ## The environment -/

theorem sershift_eq_next {s t : State} :
    execSershift s = .next t ↔ s.halted = false ∧ s.serBusy = true ∧ s.frozen = false ∧ t = s.shiftByte := by
  simp [execSershift, running_eq_next, require_eq_next, and_assoc, eq_comm (a := t)]

theorem btnedge_eq_next {s t : State} :
    execBtnedge s = .next t ↔ s.halted = false ∧ s.caller ≠ .handler
      ∧ s.pressCnt < s.cfg.pressEdgeThreshold ∧ t = s.takeEdge := by
  simp [execBtnedge, running_eq_next, require_eq_next, eq_comm (a := t)]

end Sys2Proof.Machine
end

