-- ==== Sys2Proof/Laws/PerInstr.lean ====
section
/-! SUPPORT. Per-instruction laws: how many bytes each instruction is written with (notes/assumptions/11). -/

namespace Sys2Proof.Laws.EncodedSize

/-- The bytes a format takes with its first byte `b`: a row word or burst four (R81, R82), a velocity code
and its axis two, a row-select or generator code one, an operation its OPID and its operands (R93, R98). -/
def sizeOf (fmt : Format) (b : Byte) : Nat :=
  match fmt with
  | .rw | .rb => 4
  | .vel => 2
  | .rs | .gen => 1
  | .opid => 1 + operandBytes .opid b

/-- An instruction is written with the bytes its format and first byte call for, one to five of them. -/
def Statement (i : Instr) : Prop :=
  (encode i).bytes.length = sizeOf (encode i).fmt ((encode i).bytes.headD 0x00#8)
    ∧ 1 ≤ (encode i).bytes.length ∧ (encode i).bytes.length ≤ 5

theorem blank : Statement .blank := ⟨rfl, by decide, by decide⟩
theorem tx0 : Statement .tx0 := ⟨rfl, by decide, by decide⟩
theorem wait0 : Statement .wait0 := ⟨rfl, by decide, by decide⟩
theorem tx1 : Statement .tx1 := ⟨rfl, by decide, by decide⟩
theorem wait1 : Statement .wait1 := ⟨rfl, by decide, by decide⟩
theorem tx2 : Statement .tx2 := ⟨rfl, by decide, by decide⟩
theorem wait2 : Statement .wait2 := ⟨rfl, by decide, by decide⟩
theorem tx3 : Statement .tx3 := ⟨rfl, by decide, by decide⟩
theorem wait3 : Statement .wait3 := ⟨rfl, by decide, by decide⟩
theorem latchset : Statement .latchset := ⟨rfl, by decide, by decide⟩
theorem latchclr : Statement .latchclr := ⟨rfl, by decide, by decide⟩
theorem selrow : Statement .selrow := ⟨rfl, by decide, by decide⟩
theorem settle : Statement .settle := ⟨rfl, by decide, by decide⟩
theorem atick : Statement .atick := ⟨rfl, by decide, by decide⟩
theorem transmit (b0 b1 b2 b3 : Byte) : Statement (.transmit b0 b1 b2 b3) := ⟨rfl, by simp [encode], by simp [encode]⟩
theorem rstep (f : BitVec 2) (r : BitVec 5) : Statement (.rstep f r) := ⟨rfl, by simp [encode], by simp [encode]⟩
theorem rframe : Statement .rframe := ⟨rfl, by decide, by decide⟩
theorem frame : Statement .frame := ⟨rfl, by decide, by decide⟩
theorem run : Statement .run := ⟨rfl, by decide, by decide⟩
theorem sendbyte (v : Byte) : Statement (.sendbyte v) := ⟨rfl, by simp [encode], by simp [encode]⟩
theorem ball : Statement .ball := ⟨rfl, by decide, by decide⟩
theorem erase : Statement .erase := ⟨rfl, by decide, by decide⟩
theorem bounce : Statement .bounce := ⟨rfl, by decide, by decide⟩
theorem move : Statement .move := ⟨rfl, by decide, by decide⟩
theorem draw : Statement .draw := ⟨rfl, by decide, by decide⟩
theorem noise : Statement .noise := ⟨rfl, by decide, by decide⟩
theorem sershift : Statement .sershift := ⟨rfl, by decide, by decide⟩
theorem btnedge : Statement .btnedge := ⟨rfl, by decide, by decide⟩
theorem pwrdown : Statement .pwrdown := ⟨rfl, by decide, by decide⟩
theorem reset : Statement .reset := ⟨rfl, by decide, by decide⟩
theorem rowselNone : Statement .rowselNone := ⟨rfl, by decide, by decide⟩
theorem rowselRow0 : Statement .rowselRow0 := ⟨rfl, by decide, by decide⟩
theorem rowselRow1 : Statement .rowselRow1 := ⟨rfl, by decide, by decide⟩
theorem rowselRow2 : Statement .rowselRow2 := ⟨rfl, by decide, by decide⟩
theorem rowselRow3 : Statement .rowselRow3 := ⟨rfl, by decide, by decide⟩
theorem rowselRow4 : Statement .rowselRow4 := ⟨rfl, by decide, by decide⟩
theorem rowselRow5 : Statement .rowselRow5 := ⟨rfl, by decide, by decide⟩
theorem rowselRow6 : Statement .rowselRow6 := ⟨rfl, by decide, by decide⟩
theorem rowselRow7 : Statement .rowselRow7 := ⟨rfl, by decide, by decide⟩
theorem rowselRow8 : Statement .rowselRow8 := ⟨rfl, by decide, by decide⟩
theorem rowselRow9 : Statement .rowselRow9 := ⟨rfl, by decide, by decide⟩
theorem rowselRow10 : Statement .rowselRow10 := ⟨rfl, by decide, by decide⟩
theorem rowselRow11 : Statement .rowselRow11 := ⟨rfl, by decide, by decide⟩
theorem rowselRow12 : Statement .rowselRow12 := ⟨rfl, by decide, by decide⟩
theorem rowselRow13 : Statement .rowselRow13 := ⟨rfl, by decide, by decide⟩
theorem rowselRow14 : Statement .rowselRow14 := ⟨rfl, by decide, by decide⟩
theorem rowselRow15 : Statement .rowselRow15 := ⟨rfl, by decide, by decide⟩
theorem rowselRow16 : Statement .rowselRow16 := ⟨rfl, by decide, by decide⟩
theorem rowselRow17 : Statement .rowselRow17 := ⟨rfl, by decide, by decide⟩
theorem rowselRow18 : Statement .rowselRow18 := ⟨rfl, by decide, by decide⟩
theorem rowselRow19 : Statement .rowselRow19 := ⟨rfl, by decide, by decide⟩
theorem rowselRow20 : Statement .rowselRow20 := ⟨rfl, by decide, by decide⟩
theorem rowselRow21 : Statement .rowselRow21 := ⟨rfl, by decide, by decide⟩
theorem rowselRow22 : Statement .rowselRow22 := ⟨rfl, by decide, by decide⟩
theorem rowselRow23 : Statement .rowselRow23 := ⟨rfl, by decide, by decide⟩
theorem rowselRow24 : Statement .rowselRow24 := ⟨rfl, by decide, by decide⟩
theorem rowselReservedHi (h : BitVec 4) : Statement (.rowselReservedHi h) := ⟨rfl, by simp [encode], by simp [encode]⟩
theorem rowselReservedBoth (h l : BitVec 4) : Statement (.rowselReservedBoth h l) := ⟨rfl, by simp [encode], by simp [encode]⟩
theorem rowword (c : BitVec 25) : Statement (.rowword c) := ⟨rfl, by simp [encode, bytesOfWord], by simp [encode, bytesOfWord]⟩
theorem rowburst (a b c d : Byte) : Statement (.rowburst a b c d) := ⟨rfl, by simp [encode], by simp [encode]⟩
theorem genBall : Statement .genBall := ⟨rfl, by decide, by decide⟩
theorem genNoise : Statement .genNoise := ⟨rfl, by decide, by decide⟩
theorem velM2 (a : Axis) : Statement (.velM2 a) := ⟨rfl, by simp [encode], by simp [encode]⟩
theorem velM1 (a : Axis) : Statement (.velM1 a) := ⟨rfl, by simp [encode], by simp [encode]⟩
theorem velP1 (a : Axis) : Statement (.velP1 a) := ⟨rfl, by simp [encode], by simp [encode]⟩
theorem velP2 (a : Axis) : Statement (.velP2 a) := ⟨rfl, by simp [encode], by simp [encode]⟩

end Sys2Proof.Laws.EncodedSize
end

