-- ==== Sys2Proof/Laws/Step.lean ====
section
/-! SUPPORT. All a step of the fixed program can do, said once: which instruction is performed, in which
state, and what is known there; or that nothing goes on. -/

namespace Sys2Proof.Machine

/-- The times of the coming edges replaced. -/
def State.setEdges (e : List Nat) (s : State) : State := { s with edges := e }

@[simp] theorem outcome_perform (i : Instr) (s : State) : outcome (.perform i s) = exec i s := rfl
@[simp] theorem outcome_held (s : State) : outcome (.held s) = .next s := rfl
@[simp] theorem outcome_stop (f : Fault) : outcome (.stop f) = .fault f := rfl
@[simp] theorem outcome_refuse (r : Refusal) : outcome (.refuse r) = .refused r := rfl

theorem uopInstr_ne_reset {u : BitVec 4} {i : Instr} (h : uopInstr u = some i) : i ≠ .reset := by
  rintro rfl; revert h; revert u; decide

/-- A UOP code and the micro-operation it names (R94). -/
theorem uopInstr_cases {u : BitVec 4} {i : Instr} (h : uopInstr u = some i) :
    (u, i) ∈ [(0#4, Instr.blank), (1#4, .tx0), (2#4, .wait0), (3#4, .tx1), (4#4, .wait1), (5#4, .tx2),
      (6#4, .wait2), (7#4, .tx3), (8#4, .wait3), (9#4, .latchset), (10#4, .latchclr), (11#4, .selrow),
      (12#4, .settle), (13#4, .atick)] := by
  have key : ∀ u : BitVec 4, ∀ i ∈ (uopInstr u).toList,
      (u, i) ∈ [(0#4, Instr.blank), (1#4, .tx0), (2#4, .wait0), (3#4, .tx1), (4#4, .wait1), (5#4, .tx2),
        (6#4, .wait2), (7#4, .tx3), (8#4, .wait3), (9#4, .latchset), (10#4, .latchclr), (11#4, .selrow),
        (12#4, .settle), (13#4, .atick)] := by decide
  exact key u i (by simp [h])

/-- The agent a step with no edge due belongs to: the serial primitive when a transfer runs, else the
sequencer (R203). -/
def AgentOf (i : Instr) (s : State) : Prop :=
  (s.serBusy = true ∧ s.frozen = false ∧ i = .sershift) ∨ (s.serBusy = false ∧ uopInstr s.uop = some i)

theorem pickAgent_cases {s : State} {p : Pick} (h : pickAgent s = p) :
    (s.stuck = true ∧ p = .held s) ∨ (∃ i, AgentOf i s ∧ p = .perform i s) ∨ ∃ r, p = .refuse r := by
  subst h
  unfold pickAgent
  split
  · exact .inl ⟨‹_›, rfl⟩
  · rename_i hs
    split
    · rename_i hb
      exact .inr (.inl ⟨_, .inl ⟨hb, by simpa [State.stuck, hb] using hs, rfl⟩, rfl⟩)
    · rename_i hb
      split
      · rename_i i hi; exact .inr (.inl ⟨i, .inr ⟨by simpa using hb, hi⟩, rfl⟩)
      · exact .inr (.inr ⟨_, rfl⟩)

/-- What a free-running step picks: nothing while a byte that never completes holds the thread, an edge, the
serial primitive's step when a transfer runs, or the micro-operation SEQ.UOP names (R202, R203, R227). -/
theorem pickFree_cases {s : State} {p : Pick} (h : pickFree s = p) :
    ∃ e, (s.stuck = true ∧ p = .held (s.setEdges e))
      ∨ (∃ i, (i = .btnedge ∨ AgentOf i s) ∧ p = .perform i (s.setEdges e)) ∨ ∃ r, p = .refuse r := by
  unfold pickFree at h
  split at h
  · exact ⟨_, .inr (.inl ⟨_, .inl rfl, h.symm⟩)⟩
  · refine ⟨nearer s.edges, ?_⟩
    rcases pickAgent_cases h with ⟨hs, rfl⟩ | ⟨i, hi, rfl⟩ | hr
    · exact .inl ⟨hs, rfl⟩
    · exact .inr (.inl ⟨i, .inr hi, rfl⟩)
    · exact .inr (.inr hr)

theorem whenSound_of {s : State} {p : Pick} (h : stateDefect s = none) : whenSound s p = p := by
  simp [whenSound, h]

theorem whenSound_defect {s : State} {p : Pick} {r : Refusal} (h : stateDefect s = some r) :
    whenSound s p = .refuse r := by simp [whenSound, h]

theorem whenRunning_of {s : State} {p : Pick} (hh : s.halted = false) (hc : s.caller ≠ .handler) :
    whenRunning s p = p := by simp [whenRunning, hh, hc]

/-- With nothing written, no unreachable value and the block running, a step is what the schedule picks. -/
theorem step_free {s : State} (hw : s.written = []) (hd : stateDefect s = none) (hh : s.halted = false)
    (hc : s.caller ≠ .handler) : step s = outcome (pickFree s) :=
  congrArg outcome (by simp only [pick, hw, whenSound_of hd, whenRunning_of hh hc])

/-- All a step can do with nothing written: nothing, because a byte that never completes holds the thread or
the handler; or the instruction picked, performed in the state with only the times of the coming edges
changed. Either way the state holds no unreachable value. -/
theorem step_free_cases {s t : State} (hw : s.written = []) (h : step s = .next t) :
    s.halted = false ∧ stateDefect s = none ∧ ∃ e,
      ((s.caller = .handler ∨ s.stuck = true) ∧ t = s.setEdges e)
      ∨ ∃ i, s.caller ≠ .handler ∧ exec i (s.setEdges e) = .next t ∧ (i = .btnedge ∨ AgentOf i s) := by
  cases hd : stateDefect s with
  | some r => simp [step, pick, hw, whenSound_defect hd] at h
  | none =>
    cases hh : s.halted with
    | true => simp [step, pick, hw, whenSound_of hd, whenRunning, hh] at h
    | false =>
      refine ⟨rfl, rfl, ?_⟩
      by_cases hc : s.caller = .handler
      · simp [step, pick, hw, whenSound_of hd, whenRunning, hh, hc] at h
        exact ⟨s.edges, .inl ⟨.inl hc, h.symm⟩⟩
      · rw [step_free hw hd hh hc] at h
        obtain ⟨e, ⟨hs, hp⟩ | ⟨i, hi, hp⟩ | ⟨r, hp⟩⟩ := pickFree_cases (s := s) rfl
        · rw [hp, outcome_held, next_eq_next] at h; exact ⟨e, .inl ⟨.inr hs, h⟩⟩
        · rw [hp] at h; exact ⟨e, .inr ⟨i, hc, h, hi⟩⟩
        · rw [hp] at h; cases h

end Sys2Proof.Machine
end

