-- ==== Sys2Proof/Tests/Slice0.lean ====
section
/-! SUPPORT. Tests of single steps against the spec's own vectors (spec/95_test_vectors.md) and tables, the
well-formedness smoke, the decoding of every row of the table from its written-out word, and one witness for
the hypotheses of every statement that has some. Nothing here is a statement for the provers. -/

open Sys2Proof Sys2Proof.Machine Sys2Proof.Claims

namespace Sys2Proof.Tests

/-! ## Small states -/

/-- The reset state with SEQ at a place. -/
def seqAt (u : BitVec 4) (f : BitVec 2) (r : BitVec 5) : State :=
  { State.reset with uop := u, field := f, row := r }

/-- The reset state with the ball at a place and a velocity. -/
def ballAt (x y : BitVec 5) (dx dy : BitVec 3) : State :=
  { State.reset with ballX := x, ballY := y, ballDx := dx, ballDy := dy }

/-- The buffers of V3 and V21's glyph drawn at (5, 5). -/
def dim55 : Buffer := [(5, 0x000000C0#32), (8, 0x000000C0#32)]
def bright55 : Buffer := [(5, 0x000000C0#32), (6, 0x000001E0#32), (7, 0x000001E0#32), (8, 0x000000C0#32)]

/-- V11: FIELD = 1, ROW = 16, BRIGHT[16] = 0x01ABCDEF. -/
def v11 (u : BitVec 4) : State := { seqAt u 1#2 16#5 with bright := [(16, 0x01ABCDEF#32)] }

/-- The outcome is a next state that passes a test. -/
def ran (x : Result) (p : State → Bool) : Bool :=
  match x with
  | .next t => p t
  | .fault _ => false
  | .refused _ => false

/-- The outcome is a refusal of a name. -/
def refusedAs (x : Result) (r : Refusal) : Bool :=
  match x with
  | .next _ => false
  | .fault _ => false
  | .refused q => q == r

/-- The outcome is the fault. -/
def faulted (x : Result) : Bool :=
  match x with
  | .next _ => false
  | .fault f => f == .halted
  | .refused _ => false

/-! ## Well-formedness: one ill-formed term per check -/

theorem test_wf_rstep_row_25_refused : (Instr.rstep 0#2 25#5).wellFormed = false := by decide
theorem test_wf_rstep_row_24_accepted : (Instr.rstep 3#2 24#5).wellFormed = true := by decide
theorem test_wf_reservedHi_10_refused : (Instr.rowselReservedHi 10#4).wellFormed = false := by decide
theorem test_wf_reservedHi_11_accepted : (Instr.rowselReservedHi 11#4).wellFormed = true := by decide
theorem test_wf_reservedBoth_hi_0_refused : (Instr.rowselReservedBoth 0#4 1#4).wellFormed = false := by decide
theorem test_wf_reservedBoth_lo_0_refused : (Instr.rowselReservedBoth 1#4 0#4).wellFormed = false := by decide

/-! ## Decoding: every row's word, written out from R93, R87, R91, R92, R81, R82 -/

theorem test_decode_uops_low :
    decodeTableWord 8 0b00000000 = some .blank ∧ decodeTableWord 8 0b00000001 = some .tx0
    ∧ decodeTableWord 8 0b00000010 = some .wait0 ∧ decodeTableWord 8 0b00000011 = some .tx1
    ∧ decodeTableWord 8 0b00000100 = some .wait1 ∧ decodeTableWord 8 0b00000101 = some .tx2
    ∧ decodeTableWord 8 0b00000110 = some .wait2 ∧ decodeTableWord 8 0b00000111 = some .tx3 := by decide
theorem test_decode_uops_high :
    decodeTableWord 8 0b00001000 = some .wait3 ∧ decodeTableWord 8 0b00001001 = some .latchset
    ∧ decodeTableWord 8 0b00001010 = some .latchclr ∧ decodeTableWord 8 0b00001011 = some .selrow
    ∧ decodeTableWord 8 0b00001100 = some .settle ∧ decodeTableWord 8 0b00001101 = some .atick := by decide
theorem test_decode_composites :
    decodeCmd { fmt := .opid, bytes := [0b00010000#8, 0xFF#8, 0x01#8, 0x02#8, 0x03#8] }
      = .ok (.transmit 0xFF#8 0x01#8 0x02#8 0x03#8)
    ∧ decodeCmd { fmt := .opid, bytes := [0b00010001#8, 0x03#8, 0x18#8] } = .ok (.rstep 3#2 24#5)
    ∧ decodeTableWord 8 0b00010010 = some .rframe ∧ decodeTableWord 8 0b00010011 = some .frame
    ∧ decodeTableWord 8 0b00010100 = some .run
    ∧ decodeCmd { fmt := .opid, bytes := [0b00010101#8, 0xA5#8] } = .ok (.sendbyte 0xA5#8) := by decide
theorem test_decode_subs :
    decodeTableWord 8 0b00011000 = some .ball ∧ decodeTableWord 8 0b00011001 = some .erase
    ∧ decodeTableWord 8 0b00011010 = some .bounce ∧ decodeTableWord 8 0b00011011 = some .move
    ∧ decodeTableWord 8 0b00011100 = some .draw ∧ decodeTableWord 8 0b00011101 = some .noise := by decide
theorem test_decode_env :
    decodeCmd { fmt := .opid, bytes := [0b00100000#8] } = .ok .sershift
    ∧ decodeCmd { fmt := .opid, bytes := [0b00100001#8] } = .ok .btnedge
    ∧ decodeCmd { fmt := .opid, bytes := [0b00100010#8] } = .ok .pwrdown
    ∧ decodeCmd { fmt := .opid, bytes := [0b00100011#8] } = .ok .reset := by decide
theorem test_decode_rowsel_low :
    decodeRowsel 0b00000000#8 = .rowselNone ∧ decodeRowsel 0b00000001#8 = .rowselRow0
    ∧ decodeRowsel 0b00000010#8 = .rowselRow1 ∧ decodeRowsel 0b00000011#8 = .rowselRow2
    ∧ decodeRowsel 0b00000100#8 = .rowselRow3 ∧ decodeRowsel 0b00000101#8 = .rowselRow4
    ∧ decodeRowsel 0b00000110#8 = .rowselRow5 ∧ decodeRowsel 0b00000111#8 = .rowselRow6
    ∧ decodeRowsel 0b00001000#8 = .rowselRow7 ∧ decodeRowsel 0b00001001#8 = .rowselRow8
    ∧ decodeRowsel 0b00001010#8 = .rowselRow9 ∧ decodeRowsel 0b00001011#8 = .rowselRow10
    ∧ decodeRowsel 0b00001100#8 = .rowselRow11 ∧ decodeRowsel 0b00001101#8 = .rowselRow12
    ∧ decodeRowsel 0b00001110#8 = .rowselRow13 ∧ decodeRowsel 0b00001111#8 = .rowselRow14 := by decide
theorem test_decode_rowsel_high :
    decodeRowsel 0b00010000#8 = .rowselRow15 ∧ decodeRowsel 0b00100000#8 = .rowselRow16
    ∧ decodeRowsel 0b00110000#8 = .rowselRow17 ∧ decodeRowsel 0b01000000#8 = .rowselRow18
    ∧ decodeRowsel 0b01010000#8 = .rowselRow19 ∧ decodeRowsel 0b01100000#8 = .rowselRow20
    ∧ decodeRowsel 0b01110000#8 = .rowselRow21 ∧ decodeRowsel 0b10000000#8 = .rowselRow22
    ∧ decodeRowsel 0b10010000#8 = .rowselRow23 ∧ decodeRowsel 0b10100000#8 = .rowselRow24 := by decide
theorem test_decode_rowsel_reserved :
    decodeRowsel 0b10110000#8 = .rowselReservedHi 0xB#4 ∧ decodeRowsel 0b11110000#8 = .rowselReservedHi 0xF#4
    ∧ decodeRowsel 0b00010001#8 = .rowselReservedBoth 1#4 1#4
    ∧ decodeRowsel 0b11111110#8 = .rowselReservedBoth 0xF#4 0xE#4 := by decide
theorem test_decode_row_words :
    decodeTableWord 32 0x01ABCDEF = some (.rowword 0x1ABCDEF#25)
    ∧ decodeCmd { fmt := .rb, bytes := [0x01#8, 0xAB#8, 0xCD#8, 0xEF#8] }
      = .ok (.rowburst 0x01#8 0xAB#8 0xCD#8 0xEF#8) := by decide
theorem test_decode_register_codes :
    decodeTableWord 1 0 = some .genBall ∧ decodeTableWord 1 1 = some .genNoise
    ∧ decodeCmd { fmt := .vel, bytes := [0b110#8, 0x00#8] } = .ok (.velM2 .x)
    ∧ decodeCmd { fmt := .vel, bytes := [0b111#8, 0x01#8] } = .ok (.velM1 .y)
    ∧ decodeCmd { fmt := .vel, bytes := [0b001#8, 0x00#8] } = .ok (.velP1 .x)
    ∧ decodeCmd { fmt := .vel, bytes := [0b010#8, 0x01#8] } = .ok (.velP2 .y) := by decide
/-- U2, R29, R81, R98: what no row of the table has is refused by its own name. -/
theorem test_decode_refusals :
    decodeCmd { fmt := .opid, bytes := [0x0E#8] } = .error .unknownOpid
    ∧ decodeCmd { fmt := .opid, bytes := [0x24#8] } = .error .unknownOpid
    ∧ decodeCmd { fmt := .opid, bytes := [0x11#8, 0x00#8, 0x19#8] } = .error .rowOutOfRange
    ∧ decodeCmd { fmt := .opid, bytes := [0x11#8, 0x04#8, 0x19#8] } = .error .fieldOutOfRange
    ∧ decodeCmd { fmt := .opid, bytes := [0x15#8] } = .error .missingOperand
    ∧ decodeCmd { fmt := .opid, bytes := [] } = .error .noBytes
    ∧ decodeCmd { fmt := .opid, bytes := [0x00#8, 0x00#8] } = .error .trailingBytes
    ∧ decodeCmd { fmt := .rw, bytes := [0x02#8, 0x00#8, 0x00#8, 0x00#8] } = .error .notRowWord
    ∧ decodeCmd { fmt := .gen, bytes := [0x02#8] } = .error .unknownGenCode
    ∧ decodeCmd { fmt := .vel, bytes := [0x00#8, 0x00#8] } = .error .unreachableVelocity
    ∧ decodeCmd { fmt := .vel, bytes := [0x01#8, 0x02#8] } = .error .unknownAxis
    ∧ decodeCmd { fmt := .vel, bytes := [0x05#8, 0x01#8] } = .error .unreachableVelocity
    ∧ decodeCmd { fmt := .vel, bytes := [0x08#8, 0x00#8] } = .error .unknownVelCode := by decide

/-- Bytes wrong in two ways: the order of notes/assumptions/29, the model's own. -/
theorem test_decode_refusal_order :
    decodeCmd { fmt := .vel, bytes := [0x00#8, 0x02#8] } = .error .unknownAxis
    ∧ decodeCmd { fmt := .vel, bytes := [0x00#8] } = .error .missingOperand
    ∧ decodeCmd { fmt := .vel, bytes := [0x00#8, 0x01#8, 0x00#8] } = .error .unreachableVelocity
    ∧ decodeCmd { fmt := .opid, bytes := [0x24#8, 0x00#8] } = .error .unknownOpid := by decide

/-! ## Row Transmitter (V11) -/

theorem test_tx0 : ran (exec .tx0 (v11 1#4)) (fun t => t.sdr == 0x01#8 && t.serBusy && t.uop == 2#4
    && t.trace == [.byte 0x01#8]) = true := by decide
theorem test_tx0_field0_reads_dim :
    ran (exec .tx0 { v11 1#4 with field := 0#2 }) (fun t => t.sdr == 0x00#8) = true := by decide
theorem test_tx1 : ran (exec .tx1 (v11 3#4)) (fun t => t.sdr == 0xAB#8 && t.uop == 4#4) = true := by decide
theorem test_tx2 : ran (exec .tx2 (v11 5#4)) (fun t => t.sdr == 0xCD#8 && t.uop == 6#4) = true := by decide
theorem test_tx3 : ran (exec .tx3 (v11 7#4)) (fun t => t.sdr == 0xEF#8 && t.uop == 8#4) = true := by decide
theorem test_wait0_moves_on : ran (exec .wait0 (seqAt 2#4 0#2 0#5)) (fun t => t.uop == 3#4) = true := by decide
theorem test_wait1_holds : ran (exec .wait1 { seqAt 4#4 0#2 0#5 with serBusy := true })
    (fun t => t.uop == 4#4 && t.serBusy) = true := by decide
theorem test_wait2_moves_on : ran (exec .wait2 (seqAt 6#4 0#2 0#5)) (fun t => t.uop == 7#4) = true := by decide
theorem test_wait3_moves_on : ran (exec .wait3 (seqAt 8#4 0#2 0#5)) (fun t => t.uop == 9#4) = true := by decide
theorem test_latchset : ran (exec .latchset { seqAt 9#4 0#2 0#5 with shift := 0x01ABCDEF#32 })
    (fun t => t.latch && t.colout == 0x01ABCDEF#32 && t.uop == 10#4 && t.trace == [.latch true]) = true := by decide
theorem test_latchclr : ran (exec .latchclr { seqAt 10#4 0#2 0#5 with latch := true, colout := 7#32 })
    (fun t => !t.latch && t.colout == 7#32 && t.uop == 11#4 && t.trace == [.latch false]) = true := by decide
theorem test_sershift_V11c : ran (exec .sershift { State.reset with shift := 0xDEADBEEF#32, sdr := 0x01#8, serBusy := true })
    (fun t => t.shift == 0xADBEEF01#32 && !t.serBusy && t.trace == []) = true := by decide
theorem test_sendbyte : ran (exec (.sendbyte 0xAB#8) { State.reset with shift := 0xADBEEF01#32 })
    (fun t => t.shift == 0xBEEF01AB#32 && t.trace == [.byte 0xAB#8] && t.colout == 0#32) = true := by decide
theorem test_transmit_V11e : ran (exec (.transmit 0xFF#8 0x00#8 0x00#8 0x00#8) State.reset)
    (fun t => t.shift == 0xFF000000#32 && t.colout == 0xFF000000#32 && t.rowsel == 0x00#8 && t.trace.length == 6)
    = true := by decide
theorem test_rowburst : ran (exec (.rowburst 0x01#8 0xAB#8 0xCD#8 0xEF#8) State.reset)
    (fun t => t.colout == 0x01ABCDEF#32) = true := by decide
theorem test_rowword : ran (exec (.rowword 0x1ABCDEF#25) State.reset)
    (fun t => t.colout == 0x01ABCDEF#32) = true := by decide

/-! ## Row Addresser (V4, V12) -/

theorem test_blank : ran (exec .blank { seqAt 0#4 0#2 0#5 with rowsel := 0xA0#8 })
    (fun t => t.rowsel == 0x00#8 && t.uop == 1#4 && t.trace == [.sel 0x00#8]) = true := by decide
theorem test_selrow_14 : ran (exec .selrow (seqAt 11#4 0#2 14#5)) (fun t => t.rowsel == 0x0F#8) = true := by decide
theorem test_selrow_15 : ran (exec .selrow (seqAt 11#4 0#2 15#5))
    (fun t => t.rowsel == 0x10#8 && t.trace == [.sel 0x10#8]) = true := by decide
theorem test_select_without_blank_V12c :
    refusedAs (exec .selrow { seqAt 11#4 0#2 0#5 with rowsel := 0x05#8 }) .selectWithoutBlank = true := by decide
theorem test_rowof_V12d : rowOf 0x0F#8 = .row 14 ∧ rowOf 0x10#8 = .row 15 ∧ rowOf 0xA0#8 = .row 24
    ∧ rowOf 0x00#8 = .none ∧ rowOf 0xB0#8 = .reserved ∧ rowOf 0x11#8 = .reserved ∧ rowOf 0xFF#8 = .reserved := by decide
theorem test_rowsel_none : ran (exec .rowselNone { State.reset with rowsel := 0x30#8 })
    (fun t => t.rowsel == 0x00#8) = true := by decide
/-- V4: every row code, by its row. -/
theorem test_rowsel_rows : ∀ r, r ≤ 24 →
    ran (exec (rowselOf r) State.reset) (fun t => rowOf t.rowsel == .row r) = true := by decide
theorem test_rowsel_reserved : refusedAs (exec (.rowselReservedHi 0xB#4) State.reset) .reservedRowCode = true
    ∧ refusedAs (exec (.rowselReservedBoth 1#4 1#4) State.reset) .reservedRowCode = true := by decide

/-! ## Frame Renderer (V18, V20) -/

theorem test_settle_row : ran (exec .settle (seqAt 12#4 2#2 7#5))
    (fun t => t.uop == 0#4 && t.field == 2#2 && t.row == 8#5 && t.trace == [.delay]) = true := by decide
theorem test_settle_frame_end : ran (exec .settle (seqAt 12#4 3#2 24#5))
    (fun t => t.uop == 13#4 && t.field == 0#2 && t.row == 0#5) = true := by decide
theorem test_rstep_V18 : ran (exec (.rstep 1#2 11#5) { seqAt 0#4 1#2 11#5 with bright := [(11, 0x00003C00#32)] })
    (fun t => t.rowsel == 0x0C#8 && t.colout == 0x00003C00#32 && t.trace.reverse == [.sel 0x00#8, .byte 0x00#8,
      .byte 0x00#8, .byte 0x3C#8, .byte 0x00#8, .latch true, .latch false, .sel 0x0C#8, .delay]) = true := by decide
/-- V2, V20: the word 0xFF000000 is sent as it is. -/
theorem test_rstep_V20 : ran (exec (.rstep 0#2 0#5) { seqAt 0#4 0#2 0#5 with dim := [(0, 0xFF000000#32)] })
    (fun t => t.colout == 0xFF000000#32 && lit t 0 24 == some true && lit t 0 0 == some false
      && lit t 1 24 == some false) = true := by decide

theorem test_rframe_P4 : ran (exec .rframe { seqAt 0#4 0#2 0#5 with dim := [(0, 0xFF000000#32)] })
    (fun t => t.uop == 13#4 && t.rowsel == 0xA0#8 && t.colout == 0#32 && t.trace.length == 900
      && (t.trace.filter (fun e => e == .byte 0xFF#8)).length == 1) = true := by decide +kernel
theorem test_frame_P1 : ran (exec .frame State.reset) (fun t => t.frameCtr == 1#16 && t.ballPace == 1#4
    && (t.trace.filter (fun e => e == .byte 0x18#8)).length == 8
    && (t.trace.filter (fun e => e == .byte 0x3C#8)).length == 6) = true := by decide +kernel
theorem test_run_begins_with_atick : ran (exec .run { State.reset with written := [{ fmt := .opid, bytes := [0x00#8] }] })
    (fun t => t.uop == 0#4 && t.frameCtr == 1#16 && t.trace == [] && t.written == []) = true := by decide
/-- R201: RUN, one row step later, has sent that row; seventeen steps are a row's micro-operations. -/
theorem test_run_goes_on : ran (steps 18 { State.reset with written := [{ fmt := .opid, bytes := [0x14#8] }] })
    (fun t => t.uop == 0#4 && t.row == 1#5 && t.rowsel == 0x01#8 && t.trace.length == 9) = true := by decide
/-! ## Ball generator (V3, V8, V14) -/

theorem test_ball_V3 : ran (exec .ball (ballAt 5#5 5#5 1#3 1#3))
    (fun t => t.dim == dim55 && t.bright == bright55 && t.ballPace == 1#4 && t.ballX == 5#5) = true := by decide
/-- The variant of V3 with BALL_PACE = 9. -/
theorem test_ball_V3_advancing : ran (exec .ball { ballAt 5#5 5#5 1#3 1#3 with ballPace := 9#4 })
    (fun t => t.ballX == 6#5 && t.ballY == 6#5 && t.ballPace == 0#4
      && t.dim == [(6, 0x00000180#32), (9, 0x00000180#32)] && t.draws == []) = true := by decide
theorem test_erase_V14c : ran (exec .erase { ballAt 5#5 5#5 1#3 1#3 with
      dim := [(4, 0x01FFFFFF#32), (5, 0x01FFFFFF#32), (8, 0x01FFFFFF#32), (9, 0x01FFFFFF#32)] })
    (fun t => t.dim == [(4, 0x01FFFFFF#32), (5, 0x01FFFE1F#32), (8, 0x01FFFE1F#32), (9, 0x01FFFFFF#32)])
    = true := by decide
theorem test_bounce_corner_V14b : ran (exec .bounce { ballAt 21#5 0#5 2#3 6#3 with draws := [1, 2] })
    (fun t => t.ballDx.toInt == -1 && t.ballDy.toInt == 2 && t.draws == []) = true := by decide
theorem test_bounce_away_V14b : ran (exec .bounce { ballAt 10#5 7#5 2#3 7#3 with draws := [1] })
    (fun t => t.ballDx == 2#3 && t.ballDy == 7#3 && t.draws == [1]) = true := by decide
theorem test_move_clamps_V14a : ran (exec .move (ballAt 20#5 1#5 2#3 6#3))
    (fun t => t.ballX == 21#5 && t.ballY == 0#5) = true := by decide
theorem test_move_inside_V14a : ran (exec .move (ballAt 10#5 10#5 2#3 6#3))
    (fun t => t.ballX == 12#5 && t.ballY == 8#5) = true := by decide
theorem test_draw_V14d : ran (exec .draw (ballAt 21#5 21#5 1#3 1#3))
    (fun t => t.dim == [(21, 0x00C00000#32), (24, 0x00C00000#32)] && t.bright == [(21, 0x00C00000#32),
      (22, 0x01E00000#32), (23, 0x01E00000#32), (24, 0x00C00000#32)]) = true := by decide

/-! ## Noise generator (V16) -/

theorem test_noise_V16a : ran (exec .noise { State.reset with draws := [3, 7, 24, 0] })
    (fun t => t.dim == [(3, 0x00000080#32)] && t.bright == [(24, 0x00000001#32)] && t.draws == []) = true := by decide
theorem test_noise_V16b : ran (exec .noise { State.reset with
      dim := [(3, 0x00000080#32)], bright := [(24, 0x00000001#32)], draws := [28, 57, 49, 25] })
    (fun t => t.dim == [] && t.bright == []) = true := by decide

/-! ## Animation Engine (V15, P3, V21) -/

/-- P3, ATICK 2: the budget is reached on the advancing call. -/
theorem test_atick_switch_P3 : ran (exec .atick { ballAt 5#5 5#5 1#3 1#3 with
      dim := dim55, bright := bright55, frameCtr := 4999#16, ballPace := 9#4 })
    (fun t => t.gen == .noise && t.frameCtr == 0#16 && t.ballX == 6#5 && t.uop == 0#4
      && t.bright == [(6, 0x00000180#32), (7, 0x000003C0#32), (8, 0x000003C0#32), (9, 0x00000180#32)]) = true := by decide
theorem test_atick_noise_switch_V15 : ran (exec .atick { State.reset with
      gen := .noise, frameCtr := 999#16, draws := [0, 0, 0, 0] })
    (fun t => t.gen == .ball && t.frameCtr == 0#16) = true := by decide
theorem test_gen_codes : ran (exec .genNoise { State.reset with frameCtr := 3000#16 })
      (fun t => t.gen == .noise && t.frameCtr == 0#16) = true
    ∧ ran (exec .genBall { State.reset with gen := .noise }) (fun t => t.gen == .ball) = true := by decide
theorem test_vel_codes : ran (exec (.velM2 .x) State.reset) (fun t => t.ballDx.toInt == -2) = true
    ∧ ran (exec (.velM1 .y) State.reset) (fun t => t.ballDy.toInt == -1) = true
    ∧ ran (exec (.velP1 .x) State.reset) (fun t => t.ballDx.toInt == 1) = true
    ∧ ran (exec (.velP2 .y) State.reset) (fun t => t.ballDy.toInt == 2) = true := by decide

/-! ## Button, power-down, reset (V10, V19, P5) -/

/-- V19 (b): an edge while a byte is in flight. -/
theorem test_btnedge_V19b : ran (exec .btnedge { seqAt 6#4 0#2 3#5 with pressCnt := 2, serBusy := true })
    (fun t => t.pressCnt == 3 && t.uop == 6#4 && t.serBusy && t.trace == []) = true := by decide
/-- V19 (c), with V10's threshold 6: the last edge powers down. -/
theorem test_btnedge_V19c : ran (exec .btnedge { seqAt 12#4 2#2 7#5 with
      pressCnt := 5, rowsel := 0x08#8, colout := 0x000003C0#32, bright := [(7, 0x000003C0#32)] })
    (fun t => t.halted && t.pressCnt == 6 && t.rowsel == 0x00#8 && t.colout == 0#32 && t.uop == 12#4 && t.row == 7#5
      && t.bright == [(7, 0x000003C0#32)] && t.trace.length == 20) = true := by decide
/-- P5: the byte in flight completes, and 20 events follow. -/
theorem test_pwrdown_P5 : ran (exec .pwrdown { v11 4#4 with sdr := 0xAB#8, serBusy := true, shift := 1#32 })
    (fun t => t.halted && !t.serBusy && t.shift == 0#32 && t.sdr == 0x00#8 && t.uop == 4#4
      && t.trace.length == 20 && t.trace.getLast? == some (.sel 0x00#8)) = true := by decide
theorem test_reset_from_halt : ran (exec .reset { v11 4#4 with halted := true, pressCnt := 6, gen := .noise })
    (fun t => !t.halted && t.pressCnt == 0 && t.bright == [] && t.gen == .ball && t.uop == 13#4) = true := by decide
/-- R227, U7: a WAITk whose byte never completes is a hang; BTNEDGE stays enabled there. -/
theorem test_frozen_wait_hangs :
    ran (step { seqAt 2#4 0#2 0#5 with serBusy := true, serialLeft := some 0 })
      (fun t => t == { seqAt 2#4 0#2 0#5 with serBusy := true, serialLeft := some 0 }) = true
    ∧ ran (step { seqAt 2#4 0#2 0#5 with serBusy := true, serialLeft := some 0, edges := [0] })
      (fun t => t.pressCnt == 1 && t.uop == 2#4 && t.serBusy) = true := by decide
/-- R227: with a frozen primitive the threshold edge hangs in the first byte send, ROWSEL 0 and HALTED never set. -/
theorem test_frozen_power_down_hangs :
    ran (exec .btnedge { seqAt 12#4 0#2 0#5 with pressCnt := 5, rowsel := 0x01#8, serialLeft := some 0 })
      (fun t => !t.halted && t.rowsel == 0x00#8 && t.serBusy && t.trace == [.byte 0x00#8, .sel 0x00#8]
        && (match step t with
            | .next u => u == t
            | .fault _ => false
            | .refused _ => false)) = true := by decide
/-- R204, R116: a frame that no byte of completes does not end. -/
theorem test_frozen_frame : ran (exec .frame { State.reset with serialLeft := some 5 })
    (fun t => t.uop == 4#4 && t.row == 1#5 && t.serBusy && t.rowsel == 0x00#8 && t.trace.length == 12) = true := by decide
theorem test_halted_stops_V19d : faulted (step { State.reset with halted := true }) = true := by decide

/-! ## The step -/

/-- The first step of the fixed program is ATICK (R243, V21). -/
theorem test_step_from_reset_V21 : ran (step State.reset) (fun t => t.frameCtr == 1#16 && t.ballPace == 1#4
    && t.dim == [(10, 0x00001800#32), (13, 0x00001800#32)] && t.uop == 0#4) = true := by decide
/-- A held WAITk gives way to SERSHIFT (V11 b). -/
theorem test_step_sershift_first : ran (step { seqAt 2#4 0#2 0#5 with serBusy := true, sdr := 0x5A#8 })
    (fun t => t.shift == 0x0000005A#32 && !t.serBusy && t.uop == 2#4) = true := by decide
/-- A written operation that decodes to nothing is refused (U2). -/
theorem test_step_unknown_opid :
    refusedAs (step { State.reset with written := [{ fmt := .opid, bytes := [0x3F#8] }] }) .illFormedState = true := by decide
/-- Several preconditions false at once: the order of notes/assumptions/31, the model's own. -/
theorem test_precondition_order :
    refusedAs (exec .tx0 { seqAt 3#4 0#2 30#5 with serBusy := true }) .outOfSequence = true
    ∧ refusedAs (exec .tx0 { seqAt 1#4 0#2 30#5 with serBusy := true }) .serialBusy = true
    ∧ refusedAs (exec .tx0 (seqAt 1#4 0#2 30#5)) .indexOutOfRange = true
    ∧ refusedAs (exec .selrow { seqAt 11#4 0#2 30#5 with rowsel := 0x05#8 }) .illFormedState = true
    ∧ refusedAs (exec (.rstep 0#2 25#5) { seqAt 3#4 0#2 0#5 with serBusy := true }) .indexOutOfRange = true := by
  decide

/-- A PWRDOWN performed on its own below the threshold (notes/assumptions/32, the model's own). -/
theorem test_pwrdown_alone : ran (exec .pwrdown State.reset) (fun t => t.halted && t.pressCnt == 0) = true := by decide

/-- R95: BALL_PACE = 15 is no state of the block. -/
theorem test_step_ill_formed : refusedAs (step { State.reset with ballPace := 15#4 }) .illFormedState = true := by decide

/-- R95, R211: an unreachable value is refused in a halted state too, and before a written operation sets SEQ. -/
theorem test_step_ill_formed_first :
    refusedAs (step { ballAt 22#5 0#5 1#3 1#3 with halted := true }) .illFormedState = true
    ∧ refusedAs (step { seqAt 14#4 0#2 0#5 with written := [{ fmt := .opid, bytes := [0x00#8] }] }) .illFormedState = true
    ∧ refusedAs (step { seqAt 0#4 0#2 25#5 with written := [{ fmt := .opid, bytes := [0x13#8] }] }) .illFormedState = true
    := by decide
/-- R211: a field above 3 has no name in the spec (notes/assumptions/29), a row above 24 is IndexOutOfRange. -/
theorem test_step_rstep_operands :
    refusedAs (step { State.reset with written := [{ fmt := .opid, bytes := [0x11#8, 0x04#8, 0x00#8] }] }) .undecodable = true
    ∧ refusedAs (step { State.reset with written := [{ fmt := .opid, bytes := [0x11#8, 0x00#8, 0x19#8] }] })
      .indexOutOfRange = true := by decide
/-- R179 (d): a Bright glyph no wider than Dim's is outside the parameters' range; D8's tables are inside. -/
theorem test_glyph_width : Config.Params.sample.ok = true
    ∧ { Config.Params.sample with
        glyphDim := { row0 := 0xF#4, row1 := 0x0#4, row2 := 0x0#4, row3 := 0xF#4 },
        glyphBright := { row0 := 0x1#4, row1 := 0x1#4, row2 := 0x1#4, row3 := 0x1#4 } }.ok = false := by decide

/-! ## Witnesses: for each statement with hypotheses, states and operands that meet them -/

theorem witness_TxStartsByteOfRow : ∃ (k : Nat) (s : State), k < 4 ∧ s.halted = false
    ∧ s.uop.toNat = 2 * k + 1 ∧ s.serBusy = false ∧ s.row.toNat ≤ 24 := ⟨3, seqAt 7#4 1#2 24#5, by decide⟩
theorem witness_WaitHoldsThenMovesOn :
    (∃ s : State, s.halted = false ∧ s.uop.toNat = 2 * 0 + 2 ∧ s.serBusy = false)
    ∧ ∃ s : State, s.halted = false ∧ s.uop.toNat = 2 * 3 + 2 ∧ s.serBusy = true :=
  ⟨⟨seqAt 2#4 0#2 0#5, by decide⟩, ⟨{ seqAt 8#4 0#2 0#5 with serBusy := true }, by decide⟩⟩
theorem witness_LatchsetCommitsShift : ∃ s : State, s.halted = false ∧ s.uop = 9#4 ∧ s.serBusy = false :=
  ⟨seqAt 9#4 0#2 0#5, by decide⟩
theorem witness_LatchclrEndsPulse : ∃ s : State, s.halted = false ∧ s.uop = 10#4 ∧ s.latch = true :=
  ⟨{ seqAt 10#4 0#2 0#5 with latch := true }, by decide⟩
theorem witness_SendbyteShiftsOneByte : (∃ s : State, s.halted = false ∧ s.serBusy = false ∧ s.frozen = false)
    ∧ ∃ s : State, s.halted = false ∧ s.serBusy = false ∧ s.frozen = true :=
  ⟨⟨State.reset, by decide⟩, ⟨{ State.reset with serialLeft := some 0 }, by decide⟩⟩
theorem witness_TransmitCommitsFourBytes : (∃ s : State, s.halted = false ∧ s.serBusy = false ∧ s.completes 4 = true
    ∧ s.serialLeft = none) ∧ ∃ s : State, s.halted = false ∧ s.serBusy = false ∧ s.completes 4 = true
    ∧ s.serialLeft = some 4 := ⟨⟨State.reset, by decide⟩, ⟨{ State.reset with serialLeft := some 4 }, by decide⟩⟩
theorem witness_RowburstAndRowwordAreSent : (∃ s : State, s.halted = false ∧ s.serBusy = false ∧ s.completes 4 = true)
    ∧ ∃ (n : Nat) (s : State), s.halted = false ∧ s.serBusy = false ∧ n < 4 ∧ s.serialLeft = some n ∧ n = 3 :=
  ⟨⟨State.reset, by decide⟩, ⟨3, { State.reset with serialLeft := some 3 }, by decide⟩⟩
theorem witness_BlankClearsPort : ∃ s : State, s.halted = false ∧ s.uop = 0#4 := ⟨seqAt 0#4 0#2 0#5, by decide⟩
theorem witness_SelrowWritesRowCode :
    (∃ s : State, s.halted = false ∧ s.uop = 11#4 ∧ s.rowsel = 0x00#8 ∧ s.row.toNat = 14)
    ∧ ∃ s : State, s.halted = false ∧ s.uop = 11#4 ∧ s.rowsel = 0x00#8 ∧ s.row.toNat = 15 :=
  ⟨⟨seqAt 11#4 0#2 14#5, by decide⟩, ⟨seqAt 11#4 0#2 15#5, by decide⟩⟩
theorem witness_SelectWithoutBlankRefused : ∃ s : State, s.halted = false ∧ s.rowsel ≠ 0x00#8 ∧ s.uop = 11#4
    ∧ s.row.toNat ≤ 24 := ⟨{ seqAt 11#4 0#2 24#5 with rowsel := 0xA0#8 }, by decide⟩
theorem witness_RowCodeAndRowOfAreInverse : rowOf 0xA0#8 = .row 24 ∧ rowOf 0x01#8 = .row 0 := by decide
theorem witness_RowselCodesWriteThePort : ∃ (r : Nat) (s : State), s.halted = false ∧ r ≤ 24 ∧ s.rowsel = 0x00#8 :=
  ⟨24, State.reset, by decide⟩
theorem witness_ReservedRowCodesRefused :
    (∃ s : State, noResetFirst s ∧ rowOf s.rowsel = .reserved ∧ s.halted = true)
    ∧ ∃ s : State, noResetFirst s ∧ rowOf s.rowsel = .reserved ∧ s.written = [{ fmt := .opid, bytes := [0x00#8] }] :=
  ⟨⟨{ State.reset with rowsel := 0xB0#8, halted := true }, by unfold noResetFirst; simp [State.reset], by decide⟩,
   ⟨{ State.reset with rowsel := 0x11#8, written := [{ fmt := .opid, bytes := [0x00#8] }] }, by
      rintro c rest h; cases h; decide, by decide⟩⟩
theorem witness_AtMostOneRowPowered : Invariants { seqAt 12#4 0#2 24#5 with rowsel := 0xA0#8, trace := [.sel 0xA0#8] } := by
  unfold Invariants; decide
theorem witness_BurstFallsInsideBlank :
    (∃ s : State, Invariants s ∧ s.halted = false ∧ s.latch = true) ∧ ∃ s : State, Invariants s ∧ s.halted = false ∧ s.serBusy = true :=
  ⟨⟨{ seqAt 10#4 0#2 0#5 with latch := true }, by unfold Invariants; decide⟩,
   ⟨{ seqAt 8#4 3#2 24#5 with serBusy := true }, by unfold Invariants; decide⟩⟩
theorem witness_SettleAdvancesCounters :
    (∃ s : State, s.halted = false ∧ s.uop = 12#4 ∧ s.row.toNat = 23)
    ∧ (∃ s : State, s.halted = false ∧ s.uop = 12#4 ∧ s.row.toNat = 24 ∧ s.field.toNat = 2)
    ∧ ∃ s : State, s.halted = false ∧ s.uop = 12#4 ∧ s.row.toNat = 24 ∧ s.field.toNat = 3 :=
  ⟨⟨seqAt 12#4 0#2 23#5, by decide⟩, ⟨seqAt 12#4 2#2 24#5, by decide⟩, ⟨seqAt 12#4 3#2 24#5, by decide⟩⟩
theorem witness_RstepShowsRow : ∃ (f : BitVec 2) (r : BitVec 5) (s : State), s.halted = false ∧ s.serBusy = false
    ∧ s.completes 4 = true ∧ r.toNat ≤ 24 ∧ s.uop = 0#4 ∧ s.field = f ∧ s.row = r :=
  ⟨3#2, 24#5, { seqAt 0#4 3#2 24#5 with serialLeft := some 4 }, by decide⟩
theorem witness_RframeScansEveryRow : ∃ s : State, s.halted = false ∧ s.serBusy = false ∧ s.completes 400 = true
    ∧ s.uop = 0#4 ∧ s.field = 0#2 ∧ s.row = 0#5 := ⟨seqAt 0#4 0#2 0#5, by decide⟩
theorem witness_AtickRunsGeneratorThenCounts :
    (∃ s : State, s.halted = false ∧ s.uop = 13#4 ∧ s.field = 0#2 ∧ s.row = 0#5 ∧ counterReady s
      ∧ s.gen = .ball ∧ s.frameCtr.toNat + 1 = 5000)
    ∧ ∃ s : State, s.halted = false ∧ s.uop = 13#4 ∧ s.field = 0#2 ∧ s.row = 0#5 ∧ counterReady s
      ∧ s.gen = .noise ∧ s.frameCtr.toNat + 1 = 999 :=
  ⟨⟨{ State.reset with frameCtr := 4999#16 }, by unfold counterReady; decide⟩,
   ⟨{ State.reset with gen := .noise, frameCtr := 998#16 }, by unfold counterReady; decide⟩⟩
theorem witness_AtickCompletesKeepingOutputs :
    (∃ s : State, s.halted = false ∧ s.uop = 13#4 ∧ s.field = 0#2 ∧ s.row = 0#5 ∧ counterReady s ∧ ballReady s
      ∧ s.gen = .noise)
    ∧ ∃ s : State, s.halted = false ∧ s.uop = 13#4 ∧ s.field = 0#2 ∧ s.row = 0#5 ∧ counterReady s ∧ ballReady s
      ∧ s.gen = .ball ∧ s.ballPace = 9#4 :=
  ⟨⟨{ State.reset with gen := .noise, frameCtr := 999#16 }, by unfold counterReady ballReady; decide⟩,
   ⟨{ State.reset with ballPace := 9#4 }, by unfold counterReady ballReady; decide⟩⟩
theorem witness_GeneratorScheduleClosedForm :
    ∃ s : State, s.halted = false ∧ s.gen = .ball ∧ s.frameCtr = 0#16 ∧ ballReady s :=
  ⟨State.reset, by unfold ballReady; decide⟩
theorem witness_EraseClearsBlock : ∃ s : State, s.halted = false ∧ s.ballX.toNat ≤ 21 ∧ s.ballY.toNat ≤ 21
    ∧ inBlock s 21 ∧ ¬ inBlock s 20 := ⟨ballAt 21#5 21#5 1#3 1#3, by unfold inBlock; decide⟩
theorem witness_DrawSetsGlyph : ∃ s : State, s.halted = false ∧ s.ballX.toNat ≤ 21 ∧ s.ballY.toNat ≤ 21
    ∧ inBlock s 24 ∧ ¬ inBlock s 25 := ⟨ballAt 21#5 21#5 1#3 1#3, by unfold inBlock; decide⟩
theorem witness_BounceReversesAtBoundary :
    (∃ s : State, s.halted = false ∧ ballOk s = true ∧ s.ballX.toNat = 0 ∧ s.ballY.toNat = 21)
    ∧ ∃ s : State, s.halted = false ∧ ballOk s = true ∧ s.ballX.toNat = 1 ∧ s.ballY.toNat = 20 :=
  ⟨⟨ballAt 0#5 21#5 6#3 2#3, by decide⟩, ⟨ballAt 1#5 20#5 7#3 1#3, by decide⟩⟩
theorem witness_BounceTakesSuppliedDraws :
    (∃ s : State, s.halted = false ∧ ballOk s = true ∧ s.draws = 1 :: 2 :: [] ∧ s.ballX.toNat = 21 ∧ s.ballY.toNat = 0)
    ∧ (∃ s : State, s.halted = false ∧ ballOk s = true ∧ s.draws = 2 :: 1 :: [] ∧ s.ballX.toNat = 0 ∧ s.ballY.toNat = 1)
    ∧ (∃ s : State, s.halted = false ∧ ballOk s = true ∧ s.draws = 2 :: 1 :: [] ∧ s.ballX.toNat = 20 ∧ s.ballY.toNat = 21)
    ∧ ∃ s : State, s.halted = false ∧ ballOk s = true ∧ s.draws = 2 :: 1 :: [] ∧ s.ballX.toNat = 20 ∧ s.ballY.toNat = 1 :=
  ⟨⟨{ ballAt 21#5 0#5 2#3 6#3 with draws := [1, 2] }, by decide⟩,
   ⟨{ ballAt 0#5 1#5 6#3 6#3 with draws := [2, 1] }, by decide⟩,
   ⟨{ ballAt 20#5 21#5 2#3 1#3 with draws := [2, 1] }, by decide⟩,
   ⟨{ ballAt 20#5 1#5 2#3 6#3 with draws := [2, 1] }, by decide⟩⟩
theorem witness_MoveAddsAndClamps : ∃ s : State, s.halted = false ∧ ballOk s = true ∧ s.ballX.toNat = 21
    ∧ s.ballDx.toInt = 2 ∧ s.ballY.toNat = 1 ∧ s.ballDy.toInt = -2 := ⟨ballAt 21#5 1#5 2#3 6#3, by decide⟩
theorem witness_BallCallWithoutAdvance : ∃ s : State, s.halted = false ∧ s.ballX.toNat ≤ 21 ∧ s.ballY.toNat ≤ 21
    ∧ s.ballPace.toNat < 9 := ⟨{ State.reset with ballPace := 8#4 }, by decide⟩
theorem witness_BallCallRunsStepsInOrder :
    (∃ s : State, s.halted = false ∧ ballOk s = true ∧ s.ballPace.toNat < 9 ∧ s.ballPace = 8#4)
    ∧ ∃ s : State, s.halted = false ∧ ballOk s = true ∧ s.ballPace = 9#4 :=
  ⟨⟨{ State.reset with ballPace := 8#4 }, by decide⟩, ⟨{ State.reset with ballPace := 9#4 }, by decide⟩⟩
theorem witness_NoiseTogglesOneBitPerPlane : ∃ s : State, s.halted = false := ⟨State.reset, by decide⟩
theorem witness_NoiseTakesSuppliedDraws : ∃ s : State, s.halted = false ∧ s.draws = 24 :: 25 :: 49 :: 0 :: [] :=
  ⟨{ State.reset with draws := [24, 25, 49, 0] }, by decide⟩
theorem witness_NoiseTwiceRestoresBuffers : ∃ s : State, s.halted = false ∧ memWf s = true ∧ s.dim = dim55
    ∧ s.draws = 3 :: 7 :: 24 :: 0 :: 3 :: 7 :: 24 :: 0 :: [] :=
  ⟨{ State.reset with dim := dim55, draws := [3, 7, 24, 0, 3, 7, 24, 0] }, by decide⟩
theorem witness_RegisterCodesLoadTheirRegister : ∃ s : State, s.halted = false ∧ s.frameCtr ≠ 0#16 :=
  ⟨{ State.reset with frameCtr := 7#16 }, by decide⟩
theorem witness_FrameIsAtickThenScan :
    (∃ s : State, s.halted = false ∧ s.serBusy = false ∧ s.uop = 13#4 ∧ s.field = 0#2 ∧ s.row = 0#5
      ∧ counterReady s ∧ ballReady s ∧ s.completes 400 = true)
    ∧ (∃ s : State, s.halted = false ∧ s.serBusy = false ∧ s.uop = 13#4 ∧ s.field = 0#2 ∧ s.row = 0#5
      ∧ counterReady s ∧ ballReady s ∧ s.serialLeft = some 399)
    ∧ (∃ s : State, s.halted = false ∧ s.serBusy = false ∧ s.uop = 0#4 ∧ s.field = 0#2 ∧ s.row = 0#5
      ∧ s.serialLeft = some 399)
    ∧ ∃ (n : Nat) (s : State), s.halted = false ∧ s.serBusy = false ∧ s.uop = 0#4 ∧ s.field = 3#2 ∧ s.row = 24#5
      ∧ n < 4 ∧ s.serialLeft = some n :=
  ⟨⟨State.reset, by unfold counterReady ballReady; decide⟩,
   ⟨{ State.reset with serialLeft := some 399 }, by unfold counterReady ballReady; decide⟩,
   ⟨{ seqAt 0#4 0#2 0#5 with serialLeft := some 399 }, by decide⟩,
   ⟨3, { seqAt 0#4 3#2 24#5 with serialLeft := some 3 }, by decide⟩⟩
theorem witness_RunIsFrameAndGoesOn : ∃ s : State, s.halted = false ∧ s.serBusy = false ∧ s.uop = 13#4
    ∧ s.field = 0#2 ∧ s.row = 0#5 ∧ counterReady s ∧ ballReady s ∧ s.written ≠ [] ∧ s.edges = [] ∧ s.serialLeft = none
    ∧ s.caller ≠ .handler ∧ stateDefect s = none :=
  ⟨{ State.reset with written := [{ fmt := .opid, bytes := [0x00#8] }] }, by unfold counterReady ballReady; decide⟩
theorem witness_SershiftCompletesByte :
    (∃ s : State, s.halted = false ∧ s.serBusy = true ∧ s.frozen = false)
    ∧ (∃ s : State, s.halted = false ∧ s.serBusy = true ∧ s.frozen = true)
    ∧ ∃ (k : Nat) (s : State), s.halted = false ∧ s.serBusy = false ∧ k < 16 ∧ s.serialLeft = some k ∧ k = 15 :=
  ⟨⟨{ seqAt 2#4 0#2 0#5 with serBusy := true }, by decide⟩,
   ⟨{ seqAt 2#4 0#2 0#5 with serBusy := true, serialLeft := some 0 }, by decide⟩,
   ⟨15, { State.reset with serialLeft := some 15 }, by decide⟩⟩
theorem witness_BtnedgeCountsOrPowersDown :
    (∃ s : State, s.halted = false ∧ s.caller ≠ .handler ∧ s.pressCnt < s.cfg.pressEdgeThreshold
      ∧ s.pressCnt + 1 = s.cfg.pressEdgeThreshold ∧ s.completes (powerDownBytes s) = true ∧ s.serBusy = true)
    ∧ ∃ s : State, s.halted = false ∧ s.caller ≠ .handler ∧ s.pressCnt < s.cfg.pressEdgeThreshold
      ∧ s.pressCnt + 1 ≠ s.cfg.pressEdgeThreshold :=
  ⟨⟨{ seqAt 4#4 0#2 0#5 with pressCnt := 5, serBusy := true, serialLeft := some 17 }, by decide⟩,
   ⟨{ State.reset with pressCnt := 4 }, by decide⟩⟩
theorem witness_PwrdownBlanksAndHalts :
    (∃ s : State, s.halted = false ∧ s.serBusy = true ∧ s.completes (powerDownBytes s) = true)
    ∧ ∃ s : State, s.halted = false ∧ s.serBusy = false ∧ s.completes (powerDownBytes s) = true ∧ s.serialLeft = some 16 :=
  ⟨⟨{ seqAt 4#4 0#2 0#5 with serBusy := true }, by decide⟩, ⟨{ State.reset with serialLeft := some 16 }, by decide⟩⟩
theorem witness_HaltedBlocksEveryInstruction : ∃ (i : Instr) (s : State), s.halted = true ∧ i ≠ .reset
    ∧ isReserved i = false ∧ s.written = [] ∧ stateDefect s = none := ⟨.blank, { State.reset with halted := true }, by decide⟩
/-- One state per clause of R95's and U4's lists, and a halted one. -/
def illFormed : List State :=
  [ballAt 22#5 0#5 1#3 1#3, ballAt 0#5 22#5 1#3 1#3, ballAt 0#5 0#5 3#3 1#3, ballAt 0#5 0#5 1#3 5#3,
   { State.reset with ballPace := 10#4 }, { State.reset with frameCtr := 5000#16 },
   { State.reset with gen := .noise, frameCtr := 1000#16 }, seqAt 0#4 0#2 25#5, seqAt 14#4 0#2 0#5,
   seqAt 13#4 0#2 1#5, { seqAt 9#4 0#2 0#5 with latch := true }, { seqAt 9#4 0#2 0#5 with serBusy := true },
   { State.reset with pressCnt := 6 }, { ballAt 22#5 0#5 1#3 1#3 with halted := true }]
theorem witness_IllFormedStateRefused :
    (∀ s ∈ illFormed, noResetFirst s ∧ rowOf s.rowsel ≠ .reserved)
    ∧ illFormed.map (fun s => (s.ballX.toNat, s.ballY.toNat, s.ballDx.toNat, s.ballDy.toNat, s.ballPace.toNat))
      = [(22, 0, 1, 1, 0), (0, 22, 1, 1, 0), (0, 0, 3, 1, 0), (0, 0, 1, 5, 0), (10, 10, 1, 1, 10), (10, 10, 1, 1, 0),
         (10, 10, 1, 1, 0), (10, 10, 1, 1, 0), (10, 10, 1, 1, 0), (10, 10, 1, 1, 0), (10, 10, 1, 1, 0),
         (10, 10, 1, 1, 0), (10, 10, 1, 1, 0), (22, 0, 1, 1, 0)]
    ∧ ∀ s ∈ illFormed, unreachable s := by
  refine ⟨?_, by decide, by unfold unreachable illFormed; decide⟩
  intro s hs
  refine ⟨fun c rest h => ?_, by revert s hs; decide⟩
  have key : ∀ s ∈ illFormed, s.written = [] := by decide
  rw [key s hs] at h; cases h
theorem witness_RowOutOfRangeRefused :
    (∃ (k : Nat) (s : State), k < 4 ∧ s.halted = false ∧ s.uop.toNat = 2 * k + 1 ∧ s.serBusy = false ∧ 24 < s.row.toNat)
    ∧ ∃ (r : BitVec 5) (s : State), s.halted = false ∧ 24 < r.toNat :=
  ⟨⟨0, seqAt 1#4 0#2 25#5, by decide⟩, ⟨25#5, State.reset, by decide⟩⟩
theorem witness_FalsePreconditionsRefused :
    (∃ s : State, s.halted = false ∧ s.uop.toNat ≠ 2 * 0 + 1 ∧ s.uop ≠ 9#4)
    ∧ (∃ s : State, s.halted = false ∧ s.uop.toNat = 2 * 3 + 1 ∧ s.serBusy = true)
    ∧ (∃ s : State, s.halted = false ∧ s.uop = 10#4 ∧ s.latch = false)
    ∧ (∃ s : State, s.halted = false ∧ s.serBusy = false)
    ∧ (∃ s : State, s.halted = false ∧ s.serBusy = true ∧ s.frozen = true)
    ∧ ∃ s : State, s.halted = false ∧ s.caller = .handler :=
  ⟨⟨State.reset, by decide⟩, ⟨{ seqAt 7#4 0#2 0#5 with serBusy := true }, by decide⟩,
   ⟨seqAt 10#4 0#2 0#5, by decide⟩, ⟨State.reset, by decide⟩,
   ⟨{ seqAt 2#4 0#2 0#5 with serBusy := true, serialLeft := some 0 }, by decide⟩,
   ⟨{ State.reset with caller := .handler }, by decide⟩⟩
theorem witness_StepKeepsInvariants : Invariants State.reset ∧ ran (step State.reset) (fun _ => true) = true
    ∧ ∃ s : State, Invariants s ∧ s.edges = [0] ∧ s.serialLeft = some 2
      ∧ ran (step s) (fun t => t.caller == .handler && !t.halted) = true := by
  refine ⟨by unfold Invariants; decide, by decide, { State.reset with edges := [0], pressCnt := 5, serialLeft := some 2 }, ?_⟩
  unfold Invariants; decide
theorem witness_StepKeepsBurstInvariant : ∃ s : State, Invariants s ∧ burstInv s = true ∧ s.uop = 8#4 ∧ s.serBusy = true
    ∧ ran (step s) (fun t => t.shift == 0x01ABCDEF#32) = true :=
  ⟨{ v11 8#4 with serBusy := true, sdr := 0xEF#8, shift := 0x0001ABCD#32 }, by unfold Invariants; decide⟩
theorem witness_SettleLightsCurrentRow :
    (∃ s : State, Invariants s ∧ burstInv s = true ∧ s.halted = false ∧ s.uop = 12#4 ∧ s.caller = .sequencer)
    ∧ ∃ s : State, Invariants s ∧ burstInv s = true ∧ s.halted = false ∧ s.uop = 12#4 ∧ s.caller = .handler :=
  ⟨⟨{ v11 12#4 with colout := 0x01ABCDEF#32, rowsel := 0x20#8, trace := [.sel 0x20#8] }, by unfold Invariants; decide⟩,
   ⟨{ v11 12#4 with serBusy := true, serialLeft := some 0, caller := .handler }, by unfold Invariants; decide⟩⟩
theorem witness_RunningBlockAlwaysSteps :
    (∃ s : State, Invariants s ∧ s.halted = false ∧ s.edges = [0])
    ∧ (∃ s : State, Invariants s ∧ s.halted = false ∧ s.stuck = true ∧ s.caller = .sequencer ∧ ¬ edgeDue s)
    ∧ ∃ s : State, Invariants s ∧ s.halted = false ∧ s.stuck = true ∧ s.caller = .handler :=
  ⟨⟨{ State.reset with edges := [0], pressCnt := 5 }, by unfold Invariants; decide⟩,
   ⟨{ seqAt 8#4 3#2 24#5 with serBusy := true, serialLeft := some 0, edges := [7] }, by unfold Invariants; decide,
    rfl, rfl, rfl, (by rintro ⟨_, h⟩; cases h)⟩,
   ⟨{ State.reset with serBusy := true, serialLeft := some 0, caller := .handler, pressCnt := 6 }, by
      unfold Invariants; decide⟩⟩
theorem witness_ScanNeverChangesBuffers :
    (∃ s : State, s.written = [] ∧ s.uop ≠ 13#4 ∧ ran (step s) (fun _ => true) = true)
    ∧ ∃ s : State, s.written = [] ∧ s.uop = 13#4 ∧ edgeDue s ∧ ran (step s) (fun _ => true) = true :=
  ⟨⟨seqAt 0#4 0#2 0#5, by decide⟩, ⟨{ State.reset with edges := [0, 3] }, rfl, rfl, ⟨[3], rfl⟩, by decide⟩⟩
theorem witness_OnlyEngineWritesAnimation : ∃ (i : Instr) (s : State), writesAnimation i = false
    ∧ ran (exec i s) (fun _ => true) = true := ⟨.pwrdown, State.reset, by decide⟩
theorem witness_GeneratorsKeepOutputs : ∃ (i : Instr) (s : State),
    i ∈ [Instr.atick, .ball, .erase, .bounce, .move, .draw, .noise] ∧ ran (exec i s) (fun _ => true) = true :=
  ⟨.move, State.reset, by decide⟩
theorem witness_EdgeCommutesWithMicroOperations : ∃ (i : Instr) (s : State), i ∈ uops ++ [.sershift]
    ∧ s.caller ≠ .handler ∧ s.pressCnt + 1 < s.cfg.pressEdgeThreshold ∧ ran (exec i s) (fun _ => true) = true :=
  ⟨.blank, { seqAt 0#4 0#2 0#5 with pressCnt := 4 }, by decide⟩
theorem witness_ParametersNeverChange : ran (exec .reset State.reset) (fun _ => true) = true := by decide
theorem witness_StepRunsWrittenInstruction :
    (∃ (c : Cmd) (s : State), s.written = [c] ∧ decodeCmd c = .ok .reset ∧ s.halted = true)
    ∧ (∃ (c : Cmd) (s : State), s.written = [c] ∧ s.halted = false ∧ stateDefect s = none ∧ s.caller ≠ .handler
        ∧ decodeCmd c = .error .unknownOpid)
    ∧ (∃ (c : Cmd) (s : State), s.written = [c] ∧ s.halted = false ∧ stateDefect s = none ∧ s.caller ≠ .handler
        ∧ decodeCmd c = .ok .btnedge ∧ isEnv .btnedge = true)
    ∧ (∃ (c : Cmd) (s : State), s.written = [c] ∧ s.halted = false ∧ stateDefect s = none ∧ s.caller ≠ .handler
        ∧ decodeCmd c = .ok .frame ∧ isEnv .frame = false ∧ s.stuck = false ∧ holds .frame s = false
        ∧ stateDefect (State.entry .frame { s with written := [] }) = none)
    ∧ (∃ (c : Cmd) (s : State), s.written = [c] ∧ s.halted = false ∧ stateDefect s = none ∧ s.caller ≠ .handler
        ∧ decodeCmd c = .ok .tx0 ∧ s.stuck = false ∧ holds .tx0 s = false
        ∧ stateDefect (State.entry .tx0 { s with written := [] }) = some .illFormedState)
    ∧ (∃ (c : Cmd) (s : State), s.written = [c] ∧ s.halted = false ∧ stateDefect s = none ∧ s.caller ≠ .handler
        ∧ decodeCmd c = .ok .wait0 ∧ s.stuck = false ∧ holds .wait0 s = true ∧ stateDefect (s.entry .wait0) = none)
    ∧ ∃ (c : Cmd) (s : State), s.written = [c] ∧ s.halted = false ∧ stateDefect s = none ∧ s.caller ≠ .handler
        ∧ decodeCmd c = .ok .frame ∧ isEnv .frame = false ∧ s.stuck = true ∧ ¬ edgeDue s :=
  ⟨⟨{ fmt := .opid, bytes := [0x23#8] },
    { State.reset with halted := true, written := [{ fmt := .opid, bytes := [0x23#8] }] }, by decide⟩,
   ⟨{ fmt := .opid, bytes := [0x3F#8] }, { State.reset with written := [{ fmt := .opid, bytes := [0x3F#8] }] }, by decide⟩,
   ⟨{ fmt := .opid, bytes := [0x21#8] }, { State.reset with written := [{ fmt := .opid, bytes := [0x21#8] }] }, by decide⟩,
   ⟨{ fmt := .opid, bytes := [0x13#8] }, { State.reset with written := [{ fmt := .opid, bytes := [0x13#8] }] }, by decide⟩,
   ⟨{ fmt := .opid, bytes := [0x01#8] },
    { seqAt 10#4 0#2 0#5 with latch := true, written := [{ fmt := .opid, bytes := [0x01#8] }] }, by decide⟩,
   ⟨{ fmt := .opid, bytes := [0x02#8] },
    { seqAt 2#4 0#2 0#5 with serBusy := true, written := [{ fmt := .opid, bytes := [0x02#8] }] }, by decide⟩,
   ⟨{ fmt := .opid, bytes := [0x13#8] },
    { seqAt 2#4 0#2 0#5 with serBusy := true, serialLeft := some 0, written := [{ fmt := .opid, bytes := [0x13#8] }] },
    rfl, rfl, by decide, by decide, by decide, by decide, by decide, (by rintro ⟨_, h⟩; cases h)⟩⟩
theorem witness_StepChoosesAgent :
    (∃ s : State, s.written = [] ∧ s.halted = false ∧ stateDefect s = none ∧ s.caller ≠ .handler ∧ s.edges = 0 :: [])
    ∧ (∃ s : State, s.written = [] ∧ s.halted = false ∧ stateDefect s = none ∧ s.caller ≠ .handler ∧ ¬ edgeDue s
        ∧ s.serBusy = true ∧ s.frozen = true)
    ∧ (∃ s : State, s.written = [] ∧ s.halted = false ∧ stateDefect s = none ∧ s.caller ≠ .handler ∧ ¬ edgeDue s
        ∧ s.serBusy = true ∧ s.frozen = false)
    ∧ ∃ s : State, s.written = [] ∧ s.halted = false ∧ stateDefect s = none ∧ s.caller ≠ .handler ∧ ¬ edgeDue s
        ∧ s.serBusy = false ∧ uops[s.uop.toNat]? = some .atick :=
  ⟨⟨{ State.reset with edges := [0] }, by decide⟩,
   ⟨{ seqAt 2#4 0#2 0#5 with serBusy := true, serialLeft := some 0, edges := [4] }, rfl, rfl, by decide, by decide,
    (by rintro ⟨_, h⟩; cases h), by decide⟩,
   ⟨{ seqAt 2#4 0#2 0#5 with serBusy := true, edges := [1] }, rfl, rfl, by decide, by decide,
    (by rintro ⟨_, h⟩; cases h), by decide⟩,
   ⟨State.reset, rfl, rfl, by decide, by decide, (by rintro ⟨_, h⟩; cases h), by decide⟩⟩
theorem witness_DecodeOfEncodeIsIdentity : (Instr.rstep 3#2 24#5).wellFormed = true
    ∧ (Instr.rowselReservedHi 15#4).wellFormed = true ∧ (Instr.rowselReservedBoth 15#4 15#4).wellFormed = true := by decide
theorem witness_EncodeOfDecodeIsIdentity : decode .vel [0x06#8, 0x01#8, 0xFF#8] = .ok (.velM2 .y, [0xFF#8])
    ∧ decode .opid [0x11#8, 0x03#8, 0x18#8] = .ok (.rstep 3#2 24#5, []) := by decide

end Sys2Proof.Tests
end

section
/-! PROOFS. The row-select codes (R84, R85): the number each row code is, and the one equivalence from which
the rest follows: a byte decodes to row r exactly when r is a row of the display and the byte is its code. -/

open Sys2Proof.Claims

namespace Sys2Proof.Machine

/-- The shift that puts r - 14 in the high nibble is the multiplication by 16 in the claims' `codeOf`. -/
theorem rowCode_eq_ofNat_codeOf (r : Nat) : rowCode r = BitVec.ofNat 8 (codeOf r) := by
  unfold rowCode codeOf
  split
  · rfl
  · apply BitVec.eq_of_toNat_eq
    simp [Nat.shiftLeft_eq]

theorem codeOf_pos (r : Nat) : 0 < codeOf r := by
  unfold codeOf
  split <;> omega

theorem codeOf_lt {r : Nat} (hr : r ≤ 24) : codeOf r < 256 := by
  unfold codeOf
  split <;> omega

theorem toNat_rowCode {r : Nat} (hr : r ≤ 24) : (rowCode r).toNat = codeOf r := by
  rw [rowCode_eq_ofNat_codeOf, BitVec.toNat_ofNat, Nat.mod_eq_of_lt (codeOf_lt hr)]

theorem rowCode_ne_zero {r : Nat} (hr : r ≤ 24) : rowCode r ≠ 0x00#8 := by
  intro h
  have hcode : codeOf r = 0 := by rw [← toNat_rowCode hr, h]; rfl
  exact (codeOf_pos r).ne' hcode

/-- The high nibble of a byte. -/
theorem toNat_extractLsb'_hi (v : Byte) : (v.extractLsb' 4 4).toNat = v.toNat / 16 := by
  rw [BitVec.extractLsb'_toNat, Nat.shiftRight_eq_div_pow]
  omega

/-- The low nibble of a byte. -/
theorem toNat_extractLsb'_lo (v : Byte) : (v.extractLsb' 0 4).toNat = v.toNat % 16 := by
  rw [BitVec.extractLsb'_toNat, Nat.shiftRight_zero]

/-- Each branch of `rowOf` fixes the byte's two nibbles: HI = 0 and LO = r + 1, or LO = 0 and HI = r - 14. -/
theorem rowOf_eq_row_iff_toNat (v : Byte) (r : Nat) :
    rowOf v = .row r ↔ r ≤ 24 ∧ v.toNat = codeOf r := by
  simp only [rowOf, codeOf, toNat_extractLsb'_hi, toNat_extractLsb'_lo]
  by_cases hHi : v.toNat / 16 = 0
  · simp only [hHi, if_true]
    by_cases hLo : v.toNat % 16 = 0
    · -- v = 0 is no row, and no row's code is 0
      simp only [hLo, if_true, reduceCtorEq, false_iff]
      split <;> omega
    · -- a low-nibble code: v = r + 1
      simp only [hLo, if_false, RowSel.row.injEq]
      split <;> omega
  · simp only [hHi, if_false]
    by_cases hLo : v.toNat % 16 = 0
    · by_cases hTen : v.toNat / 16 ≤ 10
      · -- a high-nibble code: v = 16 * (r - 14)
        simp only [hLo, hTen, if_true, RowSel.row.injEq]
        split <;> omega
      · -- reserved: the high nibble is above row 24's
        simp only [hLo, hTen, if_true, if_false, reduceCtorEq, false_iff]
        split <;> omega
    · -- reserved: both nibbles are set
      simp only [hLo, if_false, reduceCtorEq, false_iff]
      split <;> omega

/-- R85: the bytes read as a row are the codes of the 25 rows. -/
theorem rowOf_eq_row_iff (v : Byte) (r : Nat) : rowOf v = .row r ↔ r ≤ 24 ∧ v = rowCode r := by
  rw [rowOf_eq_row_iff_toNat]
  refine and_congr_right fun hr => ?_
  rw [← toNat_rowCode hr, BitVec.toNat_inj]

theorem rowOf_rowCode {r : Nat} (hr : r ≤ 24) : rowOf (rowCode r) = .row r :=
  (rowOf_eq_row_iff _ r).2 ⟨hr, rfl⟩

/-- RowCode is injective on the rows because RowOf undoes it there. -/
theorem rowCode_injOn {q r : Nat} (hq : q ≤ 24) (hr : r ≤ 24) (h : rowCode q = rowCode r) : q = r := by
  have hrow : RowSel.row q = .row r := by rw [← rowOf_rowCode hq, h, rowOf_rowCode hr]
  exact RowSel.row.inj hrow

/-- Settles O11: every part is a reading of `rowOf_eq_row_iff` or of the number a row code is. -/
theorem rowCodeAndRowOfAreInverse : Obligations.RowCodeAndRowOfAreInverse := by
  exact ⟨fun r hr => ⟨toNat_rowCode hr, rowCode_ne_zero hr, fun q hq => rowCode_injOn hq hr⟩,
    rfl, fun r hr => rowOf_rowCode hr, fun v r => (rowOf_eq_row_iff v r).1⟩

end Sys2Proof.Machine
end

section
/-! PROOFS. The Row Transmitter (R110, R112 to R114): the byte and latch micro-operations, and a row burst whose
four bytes all complete. -/

open Sys2Proof.Claims

namespace Sys2Proof.Machine

/-- TX0 to TX3 are the four byte numbers of one step form. -/
theorem exec_txOf {k : Nat} (hk : k < 4) (s : State) : exec (txOf k) s = txStep k s := by
  match k, hk with
  | 0, _ | 1, _ | 2, _ | 3, _ => rfl

/-- SEQ.UOP is a code u exactly when its number is u. -/
theorem uop_eq_ofNat_iff {s : State} {u : Nat} (hu : u < 16) : s.uop = BitVec.ofNat 4 u ↔ s.uop.toNat = u := by
  rw [← BitVec.toNat_inj, BitVec.toNat_ofNat, Nat.mod_eq_of_lt hu]

/-- The word TXk reads through PlaneOf is the current row's word. -/
theorem word_planeOf_field (s : State) : s.word (planeOf s.field) s.row.toNat = currentWord s := by
  unfold State.word planeOf currentWord
  split <;> rfl

/-- Settles O1: all preconditions of `txStep` hold, so it writes byte k of the word PlaneOf chooses. -/
theorem txStartsByteOfRow : Obligations.TxStartsByteOfRow := by
  intro k s hk hh hu hb hr
  have huop : s.uop = BitVec.ofNat 4 (2 * k + 1) := (uop_eq_ofNat_iff (by omega)).2 hu
  rw [exec_txOf hk]
  refine txStep_eq_next.2 ⟨hh, huop, hb, hr, ?_⟩
  rw [word_planeOf_field]
  rfl

/-- Settles O3: all preconditions of `latchSetStep` hold. -/
theorem latchsetCommitsShift : Obligations.LatchsetCommitsShift :=
  fun _ hh hu hb => latchSetStep_eq_next.2 ⟨hh, hu, hb, rfl⟩

/-- Settles O4: all preconditions of `latchClrStep` hold. -/
theorem latchclrEndsPulse : Obligations.LatchclrEndsPulse :=
  fun _ hh hu hl => latchClrStep_eq_next.2 ⟨hh, hu, hl, rfl⟩

/-- Four bytes sent leave nothing of what the chain held before (R42). -/
theorem pushBytes_four (b0 b1 b2 b3 : Byte) (w : Word) :
    pushBytes [b0, b1, b2, b3] w = b0 ++ b1 ++ b2 ++ b3 :=
  pushFourBytes w b0 b1 b2 b3

/-- A row burst whose bytes complete ends with the four bytes latched (R114). -/
theorem sendRow_eq_afterBurst (b0 b1 b2 b3 : Byte) {s : State} (hb : s.serBusy = false)
    (hc : s.completes 4 = true) : s.sendRow b0 b1 b2 b3 = afterBurst b0 b1 b2 b3 s := by
  rw [sendRow_of hb hc]
  unfold State.latchPulse State.latchSet State.sentBytes
  rw [pushBytes_four]
  rfl

/-- A row burst whose bytes complete answers with them latched, whichever instruction asks for it. -/
theorem transmitStep_of_completes (b0 b1 b2 b3 : Byte) {s : State} (hh : s.halted = false)
    (hb : s.serBusy = false) (hc : s.completes 4 = true) :
    transmitStep b0 b1 b2 b3 s = .next (afterBurst b0 b1 b2 b3 s) := by
  have hidle : (afterBurst b0 b1 b2 b3 s).serBusy = false := hb
  refine transmitStep_eq_next.2 ⟨hh, hb, ?_⟩
  rw [sendRow_eq_afterBurst b0 b1 b2 b3 hb hc, State.holdAs, hidle]
  rfl

/-- Settles O6: TRANSMIT is a row burst, and its four bytes complete. -/
theorem transmitCommitsFourBytes : Obligations.TransmitCommitsFourBytes :=
  fun b0 b1 b2 b3 _ hh hb hc => transmitStep_of_completes b0 b1 b2 b3 hh hb hc

end Sys2Proof.Machine
end

section
/-! PROOFS. The Row Addresser (R125, R126): the two micro-operations that write the row-select port. -/

open Sys2Proof.Claims

namespace Sys2Proof.Machine

/-- Settles O8: HALTED = 0 and SEQ.UOP = 0 are all that `blankStep` asks for; the port is no precondition. -/
theorem blankClearsPort : Obligations.BlankClearsPort :=
  fun _ hh hu => blankStep_eq_next.2 ⟨hh, hu, rfl⟩

/-- Settles O9: all preconditions of `selRowStep` hold, and the code it writes is the one whose number the
claim gives. -/
theorem selrowWritesRowCode : Obligations.SelrowWritesRowCode := by
  intro s hh hu hs hr
  refine selRowStep_eq_next.2 ⟨hh, hu, hr, hs, ?_⟩
  rw [rowCode_eq_ofNat_codeOf]
  rfl

end Sys2Proof.Machine
end

section
/-! PROOFS. The Frame Renderer (R138 to R142): SETTLE's advance of the counters, one (field, row) step whose four
bytes complete, and the scan made of a hundred of them. -/

open Sys2Proof.Claims

namespace Sys2Proof.Machine

/-! ## The advance of the counters (R141) -/

theorem advance_next_row {f : BitVec 2} {r : BitVec 5} (hr : r.toNat < 24) : advance f r = (0#4, f, r + 1#5) :=
  if_pos hr

theorem advance_next_field {f : BitVec 2} {r : BitVec 5} (hr : ¬ r.toNat < 24) (hf : f.toNat < 3) :
    advance f r = (0#4, f + 1#2, 0#5) :=
  (if_neg hr).trans (if_pos hf)

theorem advance_to_atick {f : BitVec 2} {r : BitVec 5} (hr : ¬ r.toNat < 24) (hf : ¬ f.toNat < 3) :
    advance f r = (13#4, 0#2, 0#5) :=
  (if_neg hr).trans (if_neg hf)

/-- Settles O16: all preconditions of `settleStep` hold, and the counters go where `advance` sends them in each of
its three cases. -/
theorem settleAdvancesCounters : Obligations.SettleAdvancesCounters := by
  intro s hh hu hr
  refine settleStep_eq_next.2 ⟨hh, hu, hr, ?_⟩
  rw [State.advanceSeq, State.emit_field, State.emit_row]
  by_cases hrow : s.row.toNat < 24
  · rw [if_pos hrow, advance_next_row hrow]; rfl
  · by_cases hfield : s.field.toNat < 3
    · rw [if_neg hrow, if_pos hfield, advance_next_field hrow hfield]; rfl
    · rw [if_neg hrow, if_neg hfield, advance_to_atick hrow hfield]; rfl

/-! ## The bytes of one (field, row) step (R110, R226, R111) -/

/-- One more byte sent and completed after some. -/
theorem sentBytes_concat (bs : List Byte) (b : Byte) {s : State} (hb : s.serBusy = false) :
    ((s.sentBytes bs).startByte b).shiftByte = s.sentBytes (bs ++ [b]) := by
  cases s
  simp only at hb
  subst hb
  simp [State.sentBytes, State.startByte, State.shiftByte, State.emit, State.raiseBusy, State.clearBusy, pushBytes,
    Function.comp_def, Nat.sub_sub]

theorem completes_sentBytes {bs : List Byte} {n : Nat} {s : State} (hc : s.completes (bs.length + n) = true) :
    (s.sentBytes bs).completes n = true := by
  cases hl : s.serialLeft with
  | none => simp [State.completes, State.sentBytes, hl]
  | some k => simp [State.completes, State.sentBytes, hl] at hc ⊢; omega

/-- TXk with a byte that completes, and WAITk, which goes on at once. -/
theorem byteStep_of (k : Nat) {s : State} (hh : s.halted = false) (hb : s.serBusy = false)
    (hr : s.row.toNat ≤ 24) (hf : s.frozen = false) (hu : s.uop = BitVec.ofNat 4 (2 * k + 1)) :
    byteStep k s
      = .next ((s.startByte (byteOf k (currentWord s))).shiftByte.setUop (BitVec.ofNat 4 (2 * k + 3))) := by
  have hsent (v : Byte) (u : BitVec 4) : ((s.startByte v).setUop u).tryShift = ((s.startByte v).setUop u).shiftByte :=
    tryShift_of ((frozen_congr rfl).trans hf)
  rw [byteStep, runAll_cons, txStep_eq_next.2 ⟨hh, hu, hb, hr, rfl⟩, andThen_next, runAll_cons, always_eq,
    andThen_next, hsent, word_planeOf_field, runAll_cons]
  exact (andThen_next_right _).trans (waitStep_eq_next.2 ⟨hh, rfl, rfl⟩)

/-- Sending and completing a byte does not read UOP, so only the last value set there counts. -/
theorem setUop_startByte_shiftByte (u v : BitVec 4) (b : Byte) (s : State) :
    (((s.setUop u).startByte b).shiftByte).setUop v = ((s.startByte b).shiftByte).setUop v := rfl

/-- The bytes sent so far, `bs`, become one more: byte k of the current word. -/
theorem byteStep_sentBytes (k : Nat) (bs : List Byte) {s : State} (hh : s.halted = false) (hb : s.serBusy = false)
    (hr : s.row.toNat ≤ 24) (hc : s.completes (bs.length + 1) = true) :
    byteStep k ((s.sentBytes bs).setUop (BitVec.ofNat 4 (2 * k + 1)))
      = .next ((s.sentBytes (bs ++ [byteOf k (currentWord s)])).setUop (BitVec.ofNat 4 (2 * k + 3))) := by
  have hf : (s.sentBytes bs).frozen = false := frozen_of_completes (completes_sentBytes hc)
  refine (byteStep_of k (s := (s.sentBytes bs).setUop (BitVec.ofNat 4 (2 * k + 1))) hh hb hr hf rfl).trans ?_
  rw [← sentBytes_concat bs _ hb, setUop_startByte_shiftByte]
  rfl

theorem runHeld_cons_next {f : State → Result} {fs : List (State → Result)} {s t : State} (hb : s.serBusy = false)
    (hf : f s = .next t) : runHeld (f :: fs) s = runHeld fs t := by
  rw [runHeld_cons f fs hb, hf, andThen_next]

/-- The four bytes of the current word, all of which complete. -/
theorem runHeld_byteSteps (fs : List (State → Result)) {w : Word} {s : State} (hh : s.halted = false)
    (hb : s.serBusy = false) (hr : s.row.toNat ≤ 24) (hc : s.completes 4 = true) (hw : currentWord s = w) :
    runHeld (byteStep 0 :: byteStep 1 :: byteStep 2 :: byteStep 3 :: fs) (s.setUop 1#4)
      = runHeld fs ((s.sentBytes [byteOf 0 w, byteOf 1 w, byteOf 2 w, byteOf 3 w]).setUop 9#4) := by
  subst hw
  have hbyte (k : Nat) (bs : List Byte) (hlen : bs.length + 1 ≤ 4) :=
    byteStep_sentBytes k bs hh hb hr (completes_mono hc hlen)
  have hfirst := hbyte 0 [] (by simp)
  rw [sentBytes_nil] at hfirst
  calc runHeld (byteStep 0 :: byteStep 1 :: byteStep 2 :: byteStep 3 :: fs) (s.setUop 1#4)
      = runHeld (byteStep 1 :: byteStep 2 :: byteStep 3 :: fs) ((s.sentBytes [byteOf 0 _]).setUop 3#4) :=
        runHeld_cons_next hb hfirst
    _ = runHeld (byteStep 2 :: byteStep 3 :: fs) ((s.sentBytes [byteOf 0 _, byteOf 1 _]).setUop 5#4) :=
        runHeld_cons_next hb (hbyte 1 [_] (by simp))
    _ = runHeld (byteStep 3 :: fs) ((s.sentBytes [byteOf 0 _, byteOf 1 _, byteOf 2 _]).setUop 7#4) :=
        runHeld_cons_next hb (hbyte 2 [_, _] (by simp))
    _ = _ := runHeld_cons_next hb (hbyte 3 [_, _, _] (by simp))

/-- The four bytes of a word leave the word in the chain (R42, R82). -/
theorem sentBytes_word (w : Word) (s : State) :
    s.sentBytes [byteOf 0 w, byteOf 1 w, byteOf 2 w, byteOf 3 w]
      = { s with sdr := byteOf 3 w, shift := w, serialLeft := leftAfter 4 s,
                 trace := [.byte (byteOf 3 w), .byte (byteOf 2 w), .byte (byteOf 1 w), .byte (byteOf 0 w)] ++ s.trace } := by
  have hw : pushBytes [byteOf 0 w, byteOf 1 w, byteOf 2 w, byteOf 3 w] s.shift = w :=
    (pushBytes_four _ _ _ _ _).trans (bytes_of_word w)
  rw [State.sentBytes, hw]
  rfl

/-! ## One (field, row) step (R138) -/

/-- The state once a scan from `s` has last shown row `r` of field `f`, with `n` bytes completed and the events `es`
since `s`. -/
def State.scanned (f : BitVec 2) (r : BitVec 5) (n : Nat) (es : List Event) (s : State) : State :=
  { s with rowsel := rowCode r.toNat, latch := false, sdr := byteOf 3 (s.rowWord f r.toNat),
           shift := s.rowWord f r.toNat, colout := s.rowWord f r.toNat, serialLeft := leftAfter n s,
           uop := (advance f r).1, field := (advance f r).2.1, row := (advance f r).2.2, trace := es ++ s.trace }

/-- The block runs, no byte is in flight, the next `n` bytes complete and SEQ = (BLANK, f, r). -/
structure ReadyAt (f : BitVec 2) (r : BitVec 5) (n : Nat) (s : State) : Prop where
  running : s.halted = false
  idle : s.serBusy = false
  completes : s.completes n = true
  uop : s.uop = 0#4
  field : s.field = f
  row : s.row = r

/-- What follows the bytes of a step: the latch pulse, the row selected and the delay. -/
theorem runHeld_afterBytes {s : State} (hh : s.halted = false) (hb : s.serBusy = false) (hu : s.uop = 9#4)
    (hs : s.rowsel = 0x00#8) (hr : s.row.toNat ≤ 24) :
    runHeld [latchSetStep, latchClrStep, selRowStep, settleStep] s
      = .next ((s.latchPulse.writeRowsel (rowCode s.row.toNat)).emit .delay).advanceSeq := by
  rw [runHeld_cons_next hb (latchSetStep_eq_next.2 ⟨hh, hu, hb, rfl⟩)]
  refine (runHeld_cons_next (by simpa using hb) (latchClrStep_eq_next.2 ⟨by simpa using hh, rfl, rfl, rfl⟩)).trans ?_
  refine (runHeld_cons_next (by simpa using hb)
    (selRowStep_eq_next.2 ⟨by simpa using hh, rfl, by simpa using hr, by simpa using hs, rfl⟩)).trans ?_
  refine (runHeld_cons_next (by simpa using hb)
    (settleStep_eq_next.2 ⟨by simpa using hh, rfl, by simpa using hr, rfl⟩)).trans ?_
  simp only [runHeld_nil, State.advanceSeq, State.setSeq, State.emit, State.setUop, State.writeRowsel, State.latchPulse,
    State.latchClear, State.latchSet]

/-- The thirteen micro-operations of a step and its four completions, from where their bytes all complete. -/
theorem runHeld_stepParts {f : BitVec 2} {r : BitVec 5} {s : State} (h : ReadyAt f r 4 s) (hr : r.toNat ≤ 24) :
    runHeld stepParts s = .next (s.scanned f r 4 (stepEvents (s.rowWord f r.toNat) r.toNat)) := by
  obtain ⟨hh, hb, hc, hu, rfl, rfl⟩ := h
  have hw : currentWord (s.writeRowsel 0x00#8) = s.rowWord s.field s.row.toNat := (word_planeOf_field s).symm
  rw [stepParts, runHeld_cons_next hb (blankStep_eq_next.2 ⟨hh, hu, rfl⟩),
    runHeld_byteSteps (s := s.writeRowsel 0x00#8) _ hh hb hr hc hw, sentBytes_word]
  refine (runHeld_afterBytes (by simpa using hh) (by simpa using hb) rfl (by simp) (by simpa using hr)).trans ?_
  simp only [State.scanned, State.advanceSeq, State.setSeq, State.emit, State.setUop, State.writeRowsel,
    State.latchPulse, State.latchClear, State.latchSet, stepEvents]
  rfl

theorem rowStep_of {f : BitVec 2} {r : BitVec 5} {s : State} (h : ReadyAt f r 4 s) (hr : r.toNat ≤ 24) :
    rowStep f r s = .next (s.scanned f r 4 (stepEvents (s.rowWord f r.toNat) r.toNat)) := by
  rw [rowStep, running_of h.running, require_of (decide_eq_true hr), atSeq_of h.uop h.field h.row,
    whenIdle_of h.idle, runHeld_stepParts h hr]

/-- Settles O17: the step shows the word PlaneOf chooses, which at SEQ = (BLANK, f, r) is the current one. -/
theorem rstepShowsRow : Obligations.RstepShowsRow := by
  intro f r s hh hb hc hr hu hf hrow
  have hw : s.rowWord f r.toNat = currentWord s := by rw [← hf, ← hrow]; exact word_planeOf_field s
  refine (rowStep_of ⟨hh, hb, hc, hu, hf, hrow⟩ hr).trans ?_
  rw [State.scanned, hw]

/-! ## The scan (R142) -/

/-- A row step writes no buffer, so later steps read the words the scan began with. -/
theorem rowWord_scanned (f g : BitVec 2) (r : BitVec 5) (q n : Nat) (es : List Event) (s : State) :
    (s.scanned f r n es).rowWord g q = s.rowWord g q := by
  unfold State.rowWord State.word
  cases planeOf g <;> rfl

theorem fieldEvents_scanned (f g : BitVec 2) (r : BitVec 5) (n m : Nat) (es : List Event) (s : State) :
    fieldEvents (s.scanned f r n es) g m = fieldEvents s g m := by
  induction m with
  | zero => rfl
  | succ m ih => rw [fieldEvents, fieldEvents, rowWord_scanned, ih]

/-- A scan gone on with is one scan: the row shown last is what stays on the outputs. -/
theorem scanned_scanned (f g : BitVec 2) (r q : BitVec 5) (n m : Nat) (es fs : List Event) (s : State) :
    (s.scanned f r n es).scanned g q m fs = s.scanned g q (n + m) (fs ++ es) := by
  rw [State.scanned, rowWord_scanned]
  simp [State.scanned, leftAfter, Function.comp_def, Nat.sub_sub]

theorem completes_scanned {f : BitVec 2} {r : BitVec 5} {n m : Nat} {es : List Event} {s : State}
    (hc : s.completes (n + m) = true) : (s.scanned f r n es).completes m = true := by
  cases hl : s.serialLeft with
  | none => simp [State.completes, State.scanned, leftAfter, hl]
  | some k => simp [State.completes, State.scanned, leftAfter, hl] at hc ⊢; omega

/-- After a step that is not the scan's last, SEQ stands at the next one. -/
theorem readyAt_scanned {f f₀ g : BitVec 2} {r r₀ q : BitVec 5} {n m : Nat} {es : List Event} {s : State}
    (h : ReadyAt f₀ r₀ (n + m) s) (ha : advance f r = (0#4, g, q)) : ReadyAt g q m (s.scanned f r n es) where
  running := h.running
  idle := h.idle
  completes := completes_scanned h.completes
  uop := congrArg Prod.fst ha
  field := congrArg (fun p => p.2.1) ha
  row := congrArg (fun p => p.2.2) ha

theorem toNat_rowIndex {n : Nat} (hn : n ≤ 24) : (BitVec.ofNat 5 n).toNat = n :=
  (BitVec.toNat_ofNat n 5).trans (Nat.mod_eq_of_lt (by omega))

/-- Rows 0 to n of one field, in order. -/
theorem runHeld_rows {f : BitVec 2} {n : Nat} {s : State} (hn : n ≤ 24) (h : ReadyAt f 0#5 (4 * (n + 1)) s) :
    runHeld ((List.range (n + 1)).map (fun r => rowStep f (BitVec.ofNat 5 r))) s
      = .next (s.scanned f (BitVec.ofNat 5 n) (4 * (n + 1)) (fieldEvents s f (n + 1))) := by
  induction n with
  | zero => exact (runHeld_cons _ _ h.idle).trans (congrArg (andThen · _) (rowStep_of h (by decide)))
  | succ n ih =>
    have hprev : ReadyAt f 0#5 (4 * (n + 1)) s := { h with completes := completes_mono h.completes (by omega) }
    have hnext : advance f (BitVec.ofNat 5 n) = (0#4, f, BitVec.ofNat 5 (n + 1)) := by
      rw [advance_next_row (by rw [toNat_rowIndex] <;> omega), ← BitVec.ofNat_add]
    have hready := readyAt_scanned (n := 4 * (n + 1)) (es := fieldEvents s f (n + 1)) (m := 4) h hnext
    rw [List.range_succ, List.map_append, runHeld_append, ih (by omega) hprev, andThen_next, List.map_singleton,
      runHeld_cons _ _ hready.idle, rowStep_of hready (by rw [toNat_rowIndex hn]; exact hn), andThen_next,
      runHeld_nil, scanned_scanned, rowWord_scanned, toNat_rowIndex hn]
    rfl

theorem runHeld_fieldSteps {f : BitVec 2} {s : State} (h : ReadyAt f 0#5 100 s) :
    runHeld (fieldSteps f) s = .next (s.scanned f 24#5 100 (fieldEvents s f 25)) :=
  runHeld_rows (n := 24) (Nat.le_refl 24) h

/-- The next field of a scan gone as far as `n` bytes and the events `es`. -/
theorem runHeld_fieldSteps_scanned {f g : BitVec 2} {r : BitVec 5} {n : Nat} {es : List Event} {s : State}
    (h : ReadyAt g 0#5 100 (s.scanned f r n es)) :
    runHeld (fieldSteps g) (s.scanned f r n es) = .next (s.scanned g 24#5 (n + 100) (fieldEvents s g 25 ++ es)) := by
  rw [runHeld_fieldSteps h, scanned_scanned, fieldEvents_scanned]

theorem frameScan_of {s : State} (h : ReadyAt 0#2 0#5 400 s) :
    frameScan s = .next (s.scanned 3#2 24#5 400 (scanEvents s)) := by
  have hready : ∀ {f g n} es, n + 100 ≤ 400 → advance f 24#5 = (0#4, g, 0#5) →
      ReadyAt g 0#5 100 (s.scanned f 24#5 n es) := fun es hn ha =>
    readyAt_scanned { h with completes := completes_mono h.completes hn } ha
  rw [frameScan, running_of h.running, atSeq_of h.uop h.field h.row, whenIdle_of h.idle, runHeld_append,
    runHeld_append, runHeld_append,
    runHeld_fieldSteps { h with completes := completes_mono h.completes (by decide) }, andThen_next,
    runHeld_fieldSteps_scanned (hready _ (by decide) rfl), andThen_next,
    runHeld_fieldSteps_scanned (hready _ (by decide) rfl), andThen_next,
    runHeld_fieldSteps_scanned (hready _ (by decide) rfl)]
  simp only [scanEvents, List.append_assoc]

/-- Settles O19: a scan ends as its last step does, on row 24 of field 3, which reads BRIGHT. -/
theorem rframeScansEveryRow : Obligations.RframeScansEveryRow :=
  fun _ hh hb hc hu hf hr => frameScan_of ⟨hh, hb, hc, hu, hf, hr⟩

end Sys2Proof.Machine
end

section
/-! PROOFS. The Animation Engine: the registers a generator can write, and ATICK as the selected generator followed
by the count of the call (R156, R157). -/

open Sys2Proof.Claims

namespace Sys2Proof.Machine

/-! ## What a generator can write (R155) -/

/-- `t` is `s` but for the planes, the ball's registers and the random source. -/
def GeneratorOnly (s t : State) : Prop :=
  t = { s with dim := t.dim, bright := t.bright, ballPace := t.ballPace, ballX := t.ballX, ballY := t.ballY,
               ballDx := t.ballDx, ballDy := t.ballDy, draws := t.draws, freeCount := t.freeCount }

theorem GeneratorOnly.refl (s : State) : GeneratorOnly s s := rfl

theorem GeneratorOnly.trans {s t u : State} (h : GeneratorOnly s t) (k : GeneratorOnly t u) : GeneratorOnly s u := by
  unfold GeneratorOnly at *; rw [k, h]

theorem GeneratorOnly.gen {s t : State} (h : GeneratorOnly s t) : t.gen = s.gen := by rw [h]

theorem GeneratorOnly.frameCtr {s t : State} (h : GeneratorOnly s t) : t.frameCtr = s.frameCtr := by rw [h]

theorem generatorOnly_afterDraw (s : State) : GeneratorOnly s s.afterDraw := by
  unfold State.afterDraw; split <;> rfl

theorem generatorOnly_bounceX (s : State) : GeneratorOnly s s.bounceX := by
  unfold State.bounceX; split
  · exact (generatorOnly_afterDraw s).trans rfl
  · exact .refl s

theorem generatorOnly_bounceY (s : State) : GeneratorOnly s s.bounceY := by
  unfold State.bounceY; split
  · exact (generatorOnly_afterDraw s).trans rfl
  · exact .refl s

theorem generatorOnly_modWord {p : Plane} {r : Nat} {f : Word → Word} {s t : State} (h : modWord p r f s = .next t) :
    GeneratorOnly s t := by
  obtain ⟨-, rfl⟩ := modWord_eq_next.1 h
  cases p <;> rfl

/-- An operation that, where it completes, writes only what a generator can. -/
def IsGeneratorPart (f : State → Result) : Prop := ∀ s t : State, f s = .next t → GeneratorOnly s t

theorem isGeneratorPart_runAll {fs : List (State → Result)} (h : ∀ f ∈ fs, IsGeneratorPart f) :
    IsGeneratorPart (runAll fs) :=
  fun s _ => runAll_keeps (P := GeneratorOnly s) fs (fun f hf u v hu hv => hu.trans (h f hf u v hv)) (.refl s)

theorem isGeneratorPart_andThen {f g : State → Result} (hf : IsGeneratorPart f) (hg : IsGeneratorPart g) :
    IsGeneratorPart (fun s => andThen (f s) g) := by
  intro s t h
  obtain ⟨u, hu, ht⟩ := andThen_eq_next.1 h
  exact (hf s u hu).trans (hg u t ht)

theorem isGeneratorPart_eraseRow (i : Nat) : IsGeneratorPart (eraseRow i) :=
  isGeneratorPart_andThen (fun _ _ => generatorOnly_modWord) (fun _ _ => generatorOnly_modWord)

theorem isGeneratorPart_drawRow (i : Nat) : IsGeneratorPart (drawRow i) :=
  isGeneratorPart_andThen (fun _ _ => generatorOnly_modWord) (fun _ _ => generatorOnly_modWord)

theorem isGeneratorPart_eraseBlock : IsGeneratorPart eraseBlock := fun s t h =>
  isGeneratorPart_runAll (by simp [isGeneratorPart_eraseRow]) s t (require_eq_next.1 h).2

theorem isGeneratorPart_drawGlyph : IsGeneratorPart drawGlyph := fun s t h =>
  isGeneratorPart_runAll (by simp [isGeneratorPart_drawRow]) s t (require_eq_next.1 h).2

theorem isGeneratorPart_bounceBall : IsGeneratorPart bounceBall := by
  intro s t h
  obtain ⟨-, rfl⟩ := bounceBall_eq_next.1 h
  exact (generatorOnly_bounceX s).trans (generatorOnly_bounceY s.bounceX)

theorem isGeneratorPart_moveBall : IsGeneratorPart moveBall := by
  intro s t h
  obtain ⟨-, rfl⟩ := moveBall_eq_next.1 h
  rfl

theorem isGeneratorPart_paceBall : IsGeneratorPart paceBall := by
  intro s t h
  have hcount (n : BitVec 4) : GeneratorOnly s { s with ballPace := n } := rfl
  unfold paceBall at h
  split at h
  · exact (hcount 0#4).trans
      (isGeneratorPart_runAll (by simp [isGeneratorPart_bounceBall, isGeneratorPart_moveBall]) _ t h)
  · exact next_eq_next.1 h ▸ hcount (s.ballPace + 1#4)

theorem isGeneratorPart_ballCall : IsGeneratorPart ballCall := fun s t h =>
  isGeneratorPart_runAll
    (by simp [isGeneratorPart_eraseBlock, isGeneratorPart_paceBall, isGeneratorPart_drawGlyph]) s t
    (require_eq_next.1 h).2

theorem isGeneratorPart_toggleBit (p : Plane) : IsGeneratorPart (toggleBit p) := fun s _ h =>
  ((generatorOnly_afterDraw s).trans (generatorOnly_afterDraw _)).trans (generatorOnly_modWord h)

theorem isGeneratorPart_noiseCall : IsGeneratorPart noiseCall :=
  isGeneratorPart_runAll (by simp [isGeneratorPart_toggleBit])

theorem isGeneratorPart_runGenerator : IsGeneratorPart runGenerator := by
  intro s t h
  unfold runGenerator at h
  split at h
  · exact isGeneratorPart_ballCall s t h
  · exact isGeneratorPart_noiseCall s t h

/-! ## ATICK (R156, R157) -/

theorem andThen_congr {x : Result} {k l : State → Result} (h : ∀ t, x = .next t → k t = l t) :
    andThen x k = andThen x l := by
  cases x with
  | next t => exact h t rfl
  | fault f => rfl
  | refused r => rfl

/-- The generator ATICK dispatches to is the instruction of that name. -/
theorem exec_selectedGenerator {s : State} (hh : s.halted = false) :
    exec (if s.gen = .ball then .ball else .noise) s = runGenerator s := by
  unfold runGenerator
  cases s.gen
  · exact running_of hh
  · exact running_of hh

theorem atickStep_of {s : State} (hh : s.halted = false) (hu : s.uop = 13#4) (hf : s.field = 0#2) (hr : s.row = 0#5)
    (hc : s.frameCtr.toNat < budget s.gen) :
    atickStep s = andThen (runGenerator s) (fun t => .next (t.countCall.setSeq 0#4 0#2 0#5)) := by
  rw [atickStep, running_of hh, atSeq_of hu hf hr, require_of (decide_eq_true hc)]
  rfl

theorem budget_eq (g : Gen) : budget g = if g = .ball then 5000 else 1000 := by cases g <;> rfl

theorem nextGen_eq (g : Gen) : nextGen g = if g = .ball then .noise else .ball := by cases g <;> rfl

theorem countCall_below {s : State} (h : s.frameCtr.toNat + 1 < budget s.gen) :
    s.countCall = { s with frameCtr := BitVec.ofNat 16 (s.frameCtr.toNat + 1) } := by
  rw [State.countCall, if_neg (Nat.not_le.2 h), BitVec.ofNat_add, BitVec.ofNat_toNat, BitVec.setWidth_eq]

theorem countCall_atBudget {s : State} (h : budget s.gen ≤ s.frameCtr.toNat + 1) :
    s.countCall = { s with gen := nextGen s.gen, frameCtr := 0#16 } :=
  if_pos h

/-- Settles O21: the generator writes neither GEN nor FRAME_CTR, so the count after it is that of the call's start. -/
theorem atickRunsGeneratorThenCounts : Obligations.AtickRunsGeneratorThenCounts := by
  intro s hh hu hf hr hc
  rw [exec_selectedGenerator hh]
  refine (atickStep_of hh hu hf hr hc).trans (andThen_congr fun t ht => congrArg _ ?_)
  have hkept : GeneratorOnly s t := isGeneratorPart_runGenerator s t ht
  rw [← budget_eq, ← nextGen_eq, ← hkept.gen, ← hkept.frameCtr]
  split
  next hlt => rw [countCall_below hlt]; rfl
  next hge => rw [countCall_atBudget (Nat.not_lt.1 hge)]; rfl

end Sys2Proof.Machine
end

section
/-! PROOFS. The Ball generator (R171 to R178): ERASE and DRAW as one pass over the four rows of the block, BOUNCE and
MOVE by axis, and BALL as these in order. -/

open Sys2Proof.Claims

namespace Sys2Proof.Machine

/-! ## A pass over the rows of the block (R172, R178) -/

/-- Row `r` of both planes replaced: each word by `g` of its plane, its row and itself. -/
def State.modRow (g : Plane → Nat → Word → Word) (r : Nat) (s : State) : State :=
  (s.setWord .dim r (g .dim r (s.word .dim r))).setWord .bright r (g .bright r (s.word .bright r))

theorem buffersOnly_modRow (g : Plane → Nat → Word → Word) (r : Nat) (s : State) : BuffersOnly s (s.modRow g r) :=
  (buffersOnly_setWord ..).trans (buffersOnly_setWord ..)

theorem State.word_modRow (g : Plane → Nat → Word → Word) (r : Nat) (s : State) (p : Plane) (q : Nat) :
    (s.modRow g r).word p q = if q = r then g p q (s.word p q) else s.word p q := by
  rw [State.modRow, State.word_setWord, State.word_setWord]
  by_cases hq : q = r
  · subst hq; cases p <;> simp
  · simp [hq]

/-- `t` is `s` with `n` rows from row `y` on replaced in both planes. -/
def RowsModified (g : Plane → Nat → Word → Word) (y n : Nat) (s t : State) : Prop :=
  BuffersOnly s t ∧ ∀ p r, t.word p r = if y ≤ r ∧ r < y + n then g p r (s.word p r) else s.word p r

theorem rowsModified_zero (g : Plane → Nat → Word → Word) (y : Nat) (s : State) : RowsModified g y 0 s s :=
  ⟨.refl s, fun _ _ => (if_neg (by omega)).symm⟩

/-- The row after those replaced so far still reads as it did at first. -/
theorem RowsModified.succ {g : Plane → Nat → Word → Word} {y n : Nat} {s t : State} (h : RowsModified g y n s t) :
    RowsModified g y (n + 1) s (t.modRow g (y + n)) := by
  obtain ⟨hframe, hword⟩ := h
  refine ⟨hframe.trans (buffersOnly_modRow ..), fun p r => ?_⟩
  rw [State.word_modRow, hword]
  by_cases hnew : r = y + n
  · rw [if_pos hnew, if_neg (by omega), if_pos (by omega)]
  · have hold : (y ≤ r ∧ r < y + (n + 1)) ↔ (y ≤ r ∧ r < y + n) := by omega
    simp only [hnew, hold, if_false]

/-- Row operations in rising order, each given by `modRow` wherever only the planes have changed. -/
theorem runAll_rows {row : Nat → State → Result} {g : Plane → Nat → Word → Word} {y n : Nat} {s : State}
    (hrow : ∀ i t, i < n → BuffersOnly s t → row i t = .next (t.modRow g (y + i))) :
    NextWith (runAll ((List.range n).map row) s) (RowsModified g y n s) := by
  induction n with
  | zero => exact ⟨s, rfl, rowsModified_zero g y s⟩
  | succ n ih =>
    obtain ⟨t, ht, hmod⟩ := ih fun i u hi => hrow i u (by omega)
    refine ⟨t.modRow g (y + n), ?_, hmod.succ⟩
    rw [List.range_succ, List.map_append, runAll_append, ht, andThen_next]
    exact (andThen_next_right _).trans (hrow n t (by omega) hmod.1)

/-- `t` is `s` with the four rows of the block at (BX, BY) replaced in both planes. -/
def BlockModified (g : Plane → Nat → Word → Word) (s t : State) : Prop :=
  OnlyBuffers s t ∧ ∀ (p : Plane) (r : Nat),
    (inBlock s r → t.word p r = g p r (s.word p r)) ∧ (¬ inBlock s r → t.word p r = s.word p r)

theorem RowsModified.block {g : Plane → Nat → Word → Word} {s t : State}
    (h : RowsModified g s.ballY.toNat 4 s t) : BlockModified g s t := by
  obtain ⟨hframe, hword⟩ := h
  refine ⟨hframe, fun p r => ?_⟩
  have hrows : inBlock s r ↔ s.ballY.toNat ≤ r ∧ r < s.ballY.toNat + 4 := by unfold inBlock; omega
  exact ⟨fun hin => (hword p r).trans (if_pos (hrows.1 hin)),
    fun hout => (hword p r).trans (if_neg (mt hrows.2 hout))⟩

theorem whenPosOk_of {k : State → Result} {s : State} (hx : s.ballX.toNat ≤ 21) (hy : s.ballY.toNat ≤ 21) :
    whenPosOk k s = k s :=
  require_of (by simp [posOk, hx, hy])

/-- The form ERASE and DRAW share: four row operations, from a position in range. -/
theorem whenPosOk_runAll_rows {row : Nat → State → Result} {g : Plane → Nat → Word → Word} {s : State}
    (hx : s.ballX.toNat ≤ 21) (hy : s.ballY.toNat ≤ 21)
    (hrow : ∀ i t, i < 4 → BuffersOnly s t → row i t = .next (t.modRow g (s.ballY.toNat + i))) :
    NextWith (whenPosOk (runAll [row 0, row 1, row 2, row 3]) s) (BlockModified g s) := by
  obtain ⟨t, ht, hmod⟩ := runAll_rows hrow
  exact ⟨t, (whenPosOk_of hx hy).trans ht, hmod.block⟩

/-- What ERASE makes of a word of the block at (BX, BY). -/
def erasedWord (s : State) (_ : Plane) (_ : Nat) (w : Word) : Word := w &&& ~~~ blockMask s

/-- What DRAW makes of a word of the block at (BX, BY). -/
def drawnWord (s : State) (p : Plane) (r : Nat) (w : Word) : Word := w ||| glyphAt s p r

theorem eraseRow_eq_modRow {i : Nat} {s t : State} (h : s.ballY.toNat + i ≤ 24) (hframe : BuffersOnly s t) :
    eraseRow i t = .next (t.modRow (erasedWord s) (s.ballY.toNat + i)) := by
  have hx : t.ballX = s.ballX := by rw [hframe]
  have hy : t.ballY = s.ballY := by rw [hframe]
  rw [eraseRow_of (hy ▸ h), hx, hy]
  rfl

/-- On row BY + i DRAW sets the Dim glyph's row i in the Dim plane. -/
theorem drawnWord_dim (s : State) (i : Nat) (w : Word) :
    drawnWord s .dim (s.ballY.toNat + i) w = w ||| placeGlyph (glyphRow s.cfg.glyphDim i) s.ballX.toNat := by
  simp only [drawnWord, glyphAt, Nat.add_sub_cancel_left]

/-- On row BY + i DRAW sets the Bright glyph's row i in the Bright plane. -/
theorem drawnWord_bright (s : State) (i : Nat) (w : Word) :
    drawnWord s .bright (s.ballY.toNat + i) w = w ||| placeGlyph (glyphRow s.cfg.glyphBright i) s.ballX.toNat := by
  simp only [drawnWord, glyphAt, Nat.add_sub_cancel_left]

theorem drawRow_eq_modRow {i : Nat} {s t : State} (h : s.ballY.toNat + i ≤ 24) (hframe : BuffersOnly s t) :
    drawRow i t = .next (t.modRow (drawnWord s) (s.ballY.toNat + i)) := by
  have hx : t.ballX = s.ballX := by rw [hframe]
  have hy : t.ballY = s.ballY := by rw [hframe]
  have hcfg : t.cfg = s.cfg := by rw [hframe]
  rw [drawRow_of (hy ▸ h), hx, hy, hcfg, State.modRow, drawnWord_dim, drawnWord_bright]

/-- All ERASE does (R172). -/
theorem eraseBlock_of {s : State} (hx : s.ballX.toNat ≤ 21) (hy : s.ballY.toNat ≤ 21) :
    NextWith (eraseBlock s) (BlockModified (erasedWord s) s) :=
  whenPosOk_runAll_rows hx hy fun _ _ hi => eraseRow_eq_modRow (by omega)

/-- All DRAW does (R178). -/
theorem drawGlyph_of {s : State} (hx : s.ballX.toNat ≤ 21) (hy : s.ballY.toNat ≤ 21) :
    NextWith (drawGlyph s) (BlockModified (drawnWord s) s) :=
  whenPosOk_runAll_rows hx hy fun _ _ hi => drawRow_eq_modRow (by omega)

theorem exec_erase {s : State} (hh : s.halted = false) : exec .erase s = eraseBlock s := running_of hh

theorem exec_draw {s : State} (hh : s.halted = false) : exec .draw s = drawGlyph s := running_of hh

/-- Settles O24: ERASE is a pass over the block's rows that masks each word. -/
theorem eraseClearsBlock : Obligations.EraseClearsBlock := by
  intro s hh hx hy
  rw [exec_erase hh]
  exact eraseBlock_of hx hy

/-- Settles O25: DRAW is a pass over the block's rows that ORs the glyph's row into each word. -/
theorem drawSetsGlyph : Obligations.DrawSetsGlyph := by
  intro s hh hx hy
  rw [exec_draw hh]
  exact drawGlyph_of hx hy

/-! ## BOUNCE, one axis at a time (R173, R174) -/

theorem ballOk_iff {s : State} :
    ballOk s = true ↔ s.ballX.toNat ≤ 21 ∧ s.ballY.toNat ≤ 21
      ∧ Config.velocityCode s.ballDx = true ∧ Config.velocityCode s.ballDy = true := by
  simp [ballOk, posOk, and_assoc]

theorem atBoundary_iff (p : BitVec 5) : atBoundary p = true ↔ p.toNat = 0 ∨ p.toNat = 21 := by
  simp [atBoundary, ← BitVec.toNat_inj]

theorem speedOf_eq_one_or_two (n : Nat) : speedOf n = 1 ∨ speedOf n = 2 := by
  unfold speedOf
  split
  · exact .inl rfl
  · exact .inr rfl

theorem toInt_reverseVel (v : BitVec 3) {m : Int} (hm : m = 1 ∨ m = 2) :
    (reverseVel v m).toInt = if v.toInt < 0 then m else -m := by
  unfold reverseVel sgn
  split
  · obtain rfl | rfl := hm <;> rfl
  · obtain rfl | rfl := hm <;> rfl

theorem velocityCode_reverseVel (v : BitVec 3) {m : Int} (hm : m = 1 ∨ m = 2) :
    Config.velocityCode (reverseVel v m) = true := by
  unfold reverseVel sgn
  split
  · obtain rfl | rfl := hm <;> rfl
  · obtain rfl | rfl := hm <;> rfl

/-- The velocity an axis has after BOUNCE, when the draw for it is `d`. -/
def bouncedVel (p : BitVec 5) (v : BitVec 3) (d : Nat) : BitVec 3 :=
  if atBoundary p then reverseVel v (speedOf d) else v

theorem velocityCode_bouncedVel (p : BitVec 5) {v : BitVec 3} (d : Nat) (hv : Config.velocityCode v = true) :
    Config.velocityCode (bouncedVel p v d) = true := by
  unfold bouncedVel
  split
  · exact velocityCode_reverseVel v (speedOf_eq_one_or_two d)
  · exact hv

/-- R174 on one axis, whatever is drawn. -/
theorem bouncedVel_spec (p : BitVec 5) (v : BitVec 3) (d : Nat) :
    if p.toNat = 0 ∨ p.toNat = 21
    then ∃ m : Int, (m = 1 ∨ m = 2) ∧ (bouncedVel p v d).toInt = (if v.toInt < 0 then m else -m)
    else bouncedVel p v d = v := by
  by_cases hp : atBoundary p = true
  · rw [if_pos ((atBoundary_iff p).1 hp), bouncedVel, if_pos hp]
    exact ⟨speedOf d, speedOf_eq_one_or_two d, toInt_reverseVel v (speedOf_eq_one_or_two d)⟩
  · rw [if_neg (mt (atBoundary_iff p).2 hp), bouncedVel, if_neg hp]

/-- `t` is `s` but for the velocity and the random source. -/
def VelocityOnly (s t : State) : Prop :=
  t = { s with ballDx := t.ballDx, ballDy := t.ballDy, draws := t.draws, freeCount := t.freeCount }

theorem VelocityOnly.refl (s : State) : VelocityOnly s s := rfl

theorem VelocityOnly.trans {s t u : State} (h : VelocityOnly s t) (k : VelocityOnly t u) : VelocityOnly s u := by
  unfold VelocityOnly at *; rw [k, h]

theorem VelocityOnly.ballX {s t : State} (h : VelocityOnly s t) : t.ballX = s.ballX := by rw [h]

theorem VelocityOnly.ballY {s t : State} (h : VelocityOnly s t) : t.ballY = s.ballY := by rw [h]

theorem VelocityOnly.ballPace {s t : State} (h : VelocityOnly s t) : t.ballPace = s.ballPace := by rw [h]

theorem VelocityOnly.halted {s t : State} (h : VelocityOnly s t) : t.halted = s.halted := by rw [h]

theorem velocityOnly_afterDraw (s : State) : VelocityOnly s s.afterDraw := by
  unfold State.afterDraw; split <;> rfl

theorem velocityOnly_bounceX (s : State) : VelocityOnly s s.bounceX := by
  unfold State.bounceX; split
  · exact (velocityOnly_afterDraw s).trans rfl
  · exact .refl s

theorem velocityOnly_bounceY (s : State) : VelocityOnly s s.bounceY := by
  unfold State.bounceY; split
  · exact (velocityOnly_afterDraw s).trans rfl
  · exact .refl s

@[simp] theorem State.bounceX_ballDx (s : State) : s.bounceX.ballDx = bouncedVel s.ballX s.ballDx s.drawn := by
  unfold State.bounceX bouncedVel; split <;> rfl

@[simp] theorem State.bounceX_ballDy (s : State) : s.bounceX.ballDy = s.ballDy := by
  unfold State.bounceX; split <;> simp

@[simp] theorem State.bounceY_ballDx (s : State) : s.bounceY.ballDx = s.ballDx := by
  unfold State.bounceY; split <;> simp

@[simp] theorem State.bounceY_ballDy (s : State) : s.bounceY.ballDy = bouncedVel s.ballY s.ballDy s.drawn := by
  unfold State.bounceY bouncedVel; split <;> rfl

/-- The state after BOUNCE: the horizontal half first. -/
def State.bounced (s : State) : State := s.bounceX.bounceY

theorem velocityOnly_bounced (s : State) : VelocityOnly s s.bounced :=
  (velocityOnly_bounceX s).trans (velocityOnly_bounceY s.bounceX)

theorem State.bounced_ballDx (s : State) : s.bounced.ballDx = bouncedVel s.ballX s.ballDx s.drawn := by
  simp [State.bounced]

/-- The vertical draw is the one left by the horizontal half. -/
theorem State.bounced_ballDy (s : State) : s.bounced.ballDy = bouncedVel s.ballY s.ballDy s.bounceX.drawn := by
  rw [State.bounced, State.bounceY_ballDy, State.bounceX_ballDy, (velocityOnly_bounceX s).ballY]

theorem ballOk_bounced {s : State} (h : ballOk s = true) : ballOk s.bounced = true := by
  obtain ⟨hx, hy, hdx, hdy⟩ := ballOk_iff.1 h
  have hkept := velocityOnly_bounced s
  rw [ballOk_iff, hkept.ballX, hkept.ballY, State.bounced_ballDx, State.bounced_ballDy]
  exact ⟨hx, hy, velocityCode_bouncedVel _ _ hdx, velocityCode_bouncedVel _ _ hdy⟩

theorem exec_bounce_of {s : State} (hh : s.halted = false) (h : ballOk s = true) : exec .bounce s = .next s.bounced :=
  (running_of hh).trans (bounceBall_eq_next.2 ⟨h, rfl⟩)

/-- Settles O26: BOUNCE is the same change on each axis, with the draw that axis takes. -/
theorem bounceReversesAtBoundary : Obligations.BounceReversesAtBoundary := by
  intro s hh hok
  refine ⟨s.bounced, exec_bounce_of hh hok, velocityOnly_bounced s, ?_, ?_⟩
  · rw [State.bounced_ballDx]; exact bouncedVel_spec ..
  · rw [State.bounced_ballDy]; exact bouncedVel_spec ..

/-! ## MOVE (R176, R177) -/

theorem clampInt_eq_max_min {lo hi : Int} (h : lo ≤ hi) (v : Int) : clampInt v lo hi = max lo (min hi v) := by
  unfold clampInt
  split <;> omega

/-- The clamped sum fits the register, so it is stored as it is. -/
theorem toNat_movePos (p : BitVec 5) (v : BitVec 3) :
    ((movePos p v).toNat : Int) = max 0 (min 21 (p.toNat + v.toInt)) := by
  rw [movePos, clampInt_eq_max_min (by decide), BitVec.toNat_ofNat]
  omega

theorem movePos_le (p : BitVec 5) (v : BitVec 3) : (movePos p v).toNat ≤ 21 := by
  have := toNat_movePos p v
  omega

theorem ballOk_movedBall {s : State} (h : ballOk s = true) : ballOk s.movedBall = true := by
  obtain ⟨-, -, hdx, hdy⟩ := ballOk_iff.1 h
  exact ballOk_iff.2 ⟨movePos_le .., movePos_le .., hdx, hdy⟩

theorem exec_move_of {s : State} (hh : s.halted = false) (h : ballOk s = true) : exec .move s = .next s.movedBall :=
  (running_of hh).trans (moveBall_eq_next.2 ⟨h, rfl⟩)

/-- Settles O28: both coordinates are `movePos` of coordinate and velocity. -/
theorem moveAddsAndClamps : Obligations.MoveAddsAndClamps :=
  fun s hh hok => ⟨s.movedBall, exec_move_of hh hok, rfl, toNat_movePos .., toNat_movePos ..⟩

/-! ## BALL (R171) -/

theorem GeneratorOnly.outputsKept {s t : State} (h : GeneratorOnly s t) : OutputsKept s t := by
  rw [h]; exact ⟨rfl, rfl, rfl, rfl, rfl, rfl, rfl, rfl, rfl, rfl, rfl, rfl, rfl, rfl⟩

theorem BuffersOnly.ballOk {s t : State} (h : BuffersOnly s t) : ballOk t = ballOk s := by
  rw [h]; rfl

theorem BuffersOnly.ballPace {s t : State} (h : BuffersOnly s t) : t.ballPace = s.ballPace := by rw [h]

theorem BuffersOnly.halted {s t : State} (h : BuffersOnly s t) : t.halted = s.halted := by rw [h]

theorem paceBall_below {s : State} (h : s.ballPace.toNat < 9) :
    paceBall s = .next { s with ballPace := s.ballPace + 1#4 } :=
  if_neg (by simp only [Config.ballPaceDiv]; omega)

/-- The tenth call's middle (R171): the pace cleared, BOUNCE, MOVE. -/
def State.advanced (s : State) : State := (State.bounced { s with ballPace := 0#4 }).movedBall

theorem State.advanced_ballPace (s : State) : s.advanced.ballPace = 0#4 :=
  (velocityOnly_bounced { s with ballPace := 0#4 }).ballPace

theorem ballOk_advanced {s : State} (h : ballOk s = true) : ballOk s.advanced = true :=
  ballOk_movedBall (ballOk_bounced (s := { s with ballPace := 0#4 }) h)

theorem State.advanced_halted (s : State) : s.advanced.halted = s.halted :=
  (velocityOnly_bounced { s with ballPace := 0#4 }).halted

theorem paceBall_tenth {s : State} (hok : ballOk s = true) (hp : s.ballPace = 9#4) :
    paceBall s = .next s.advanced := by
  have hbounce : bounceBall { s with ballPace := 0#4 } = .next (State.bounced { s with ballPace := 0#4 }) :=
    bounceBall_eq_next.2 ⟨hok, rfl⟩
  have hmove : moveBall (State.bounced { s with ballPace := 0#4 }) = .next s.advanced :=
    moveBall_eq_next.2 ⟨ballOk_bounced hok, rfl⟩
  rw [paceBall, if_pos (by rw [hp]; rfl), runAll_cons, hbounce, andThen_next, runAll_cons, hmove, andThen_next,
    runAll_nil]

/-- ERASE completes and leaves the registers, and then BALL goes on with the paced middle and DRAW. -/
theorem ballCall_after_erase {s : State} (hok : ballOk s = true) (hp : s.ballPace.toNat ≤ 9) :
    ∃ t, eraseBlock s = .next t ∧ BuffersOnly s t ∧ ballCall s = andThen (paceBall t) drawGlyph := by
  obtain ⟨hx, hy, -, -⟩ := ballOk_iff.1 hok
  obtain ⟨t, ht, hframe, -⟩ := eraseBlock_of hx hy
  refine ⟨t, ht, hframe, ?_⟩
  rw [ballCall, require_of (decide_eq_true hp), runAll_cons, ht, andThen_next, runAll_cons]
  exact congrArg _ (funext fun _ => andThen_next_right _)

theorem exec_ball {s : State} (hh : s.halted = false) : exec .ball s = ballCall s := running_of hh

theorem exec_ball_below {s : State} (hh : s.halted = false) (hok : ballOk s = true) (hp : s.ballPace.toNat < 9) :
    exec .ball s
      = andThen (exec .erase s) (fun t => exec .draw { t with ballPace := s.ballPace + 1#4 }) := by
  obtain ⟨t, ht, hframe, hball⟩ := ballCall_after_erase hok hp.le
  rw [exec_ball hh, exec_erase hh, hball, ht, andThen_next, paceBall_below (hframe.ballPace ▸ hp), andThen_next,
    hframe.ballPace]
  exact (exec_draw (s := { t with ballPace := s.ballPace + 1#4 }) (hframe.halted.trans hh)).symm

/-- The tenth call is DRAW in the state that ERASE, the cleared pace, BOUNCE and MOVE leave. -/
theorem exec_ball_tenth {s : State} (hh : s.halted = false) (hok : ballOk s = true) (hp : s.ballPace = 9#4) :
    ∃ t, exec .erase s = .next t ∧ BuffersOnly s t ∧ exec .ball s = drawGlyph t.advanced := by
  obtain ⟨t, ht, hframe, hball⟩ := ballCall_after_erase hok (by rw [hp]; decide)
  refine ⟨t, (exec_erase hh).trans ht, hframe, ?_⟩
  rw [exec_ball hh, hball, paceBall_tenth (hframe.ballOk.trans hok) (hframe.ballPace.trans hp), andThen_next]

theorem exec_ball_tenth_inOrder {s : State} (hh : s.halted = false) (hok : ballOk s = true) (hp : s.ballPace = 9#4) :
    exec .ball s = andThen (exec .erase s) (fun t =>
      andThen (exec .bounce { t with ballPace := 0#4 }) (fun u => andThen (exec .move u) (exec .draw))) := by
  obtain ⟨t, ht, hframe, hball⟩ := exec_ball_tenth hh hok hp
  have hht : t.halted = false := hframe.halted.trans hh
  have hokt : ballOk t = true := hframe.ballOk.trans hok
  have hbounce := exec_bounce_of (s := { t with ballPace := 0#4 }) hht hokt
  have hmove := exec_move_of ((velocityOnly_bounced { t with ballPace := 0#4 }).halted.trans hht) (ballOk_bounced hokt)
  rw [ht, andThen_next, hbounce, andThen_next, hmove, andThen_next, hball]
  exact (exec_draw (t.advanced_halted.trans hht)).symm

theorem exec_ball_tenth_completes {s : State} (hh : s.halted = false) (hok : ballOk s = true)
    (hp : s.ballPace = 9#4) :
    NextWith (exec .ball s) (fun t => t.ballPace = 0#4 ∧ ballOk t = true ∧ OutputsKept s t) := by
  obtain ⟨t, -, hframe, hball⟩ := exec_ball_tenth hh hok hp
  have hadv : ballOk t.advanced = true := ballOk_advanced (hframe.ballOk.trans hok)
  obtain ⟨hx, hy, -, -⟩ := ballOk_iff.1 hadv
  obtain ⟨u, hu, hdrawn, -⟩ := drawGlyph_of hx hy
  have hcall : exec .ball s = .next u := hball.trans hu
  have hkept : GeneratorOnly s u := isGeneratorPart_ballCall s u ((exec_ball hh).symm.trans hcall)
  exact ⟨u, hcall, (BuffersOnly.ballPace hdrawn).trans t.advanced_ballPace, (BuffersOnly.ballOk hdrawn).trans hadv,
    hkept.outputsKept⟩

/-- Settles O30: `ballCall` with each part in the place of its instruction, on either side of the tenth call. -/
theorem ballCallRunsStepsInOrder : Obligations.BallCallRunsStepsInOrder :=
  fun _ hh hok => ⟨exec_ball_below hh hok, fun hp =>
    ⟨exec_ball_tenth_inOrder hh hok hp, exec_ball_tenth_completes hh hok hp⟩⟩

end Sys2Proof.Machine
end

section
/-! PROOFS. The Noise generator (R191, R192): NOISE with supplied draws as the flip of one bit in each plane, and the
flip as its own inverse on a plane in canonical form. -/

open Sys2Proof.Claims

namespace Sys2Proof.Machine

/-! ## The flip of one bit -/

/-- A plane with the bit at row `r`, column `c` flipped (R191). -/
def bufFlip (b : Buffer) (r c : Nat) : Buffer := bufWrite b r (bufRead b r ^^^ bitMask c)

theorem bufRead_flip (b : Buffer) (r c q : Nat) :
    bufRead (bufFlip b r c) q = if q = r then bufRead b r ^^^ bitMask c else bufRead b q := bufRead_write ..

theorem bufWf_flip {b : Buffer} {r : Nat} (c : Nat) (hb : bufWf b = true) (hr : r ≤ 24) :
    bufWf (bufFlip b r c) = true := bufWf_write _ _ _ hb hr

/-- The mask cancels at row `r`; a plane in canonical form is determined by its reads. -/
theorem bufFlip_bufFlip {b : Buffer} {r : Nat} (c : Nat) (hb : bufWf b = true) (hr : r ≤ 24) :
    bufFlip (bufFlip b r c) r c = b := by
  refine bufWf_ext (bufWf_flip c (bufWf_flip c hb hr) hr) hb fun q => ?_
  rw [bufRead_flip]
  split
  next hq => rw [bufRead_flip, if_pos rfl, BitVec.xor_assoc, BitVec.xor_self, BitVec.xor_zero, hq]
  next hq => rw [bufRead_flip, if_neg hq]

/-! ## NOISE with supplied draws -/

theorem State.drawn_of {s : State} {d : Nat} {rest : List Nat} (hd : s.draws = d :: rest) : s.drawn = d := by
  rw [State.drawn, hd]

theorem State.afterDraw_of {s : State} {d : Nat} {rest : List Nat} (hd : s.draws = d :: rest) :
    s.afterDraw = { s with draws := rest } := by
  rw [State.afterDraw, hd]

theorem toggleBit_of {s : State} {r c : Nat} {rest : List Nat} (p : Plane) (hd : s.draws = r :: c :: rest) :
    toggleBit p s = .next (State.setPlane p (bufFlip (s.plane p) (r % 25) (c % 25)) { s with draws := rest }) := by
  rw [toggleBit_eq, State.drawn_of hd, State.afterDraw_of hd, State.drawn_of rfl, State.afterDraw_of rfl]
  cases p <;> rfl

/-- The state after NOISE: Dim's bit flipped by the first two draws, Bright's by the other two (R191). -/
def State.noised (r1 c1 r2 c2 : Nat) (rest : List Nat) (s : State) : State :=
  { s with dim := bufFlip s.dim (r1 % 25) (c1 % 25), bright := bufFlip s.bright (r2 % 25) (c2 % 25), draws := rest }

theorem exec_noise_of {s : State} {r1 c1 r2 c2 : Nat} {rest : List Nat} (hh : s.halted = false)
    (hd : s.draws = r1 :: c1 :: r2 :: c2 :: rest) : exec .noise s = .next (s.noised r1 c1 r2 c2 rest) := by
  have hcall : exec .noise s = noiseCall s := running_of hh
  rw [hcall, noiseCall, runAll_cons, toggleBit_of .dim hd, andThen_next, runAll_cons, toggleBit_of .bright rfl]
  rfl

theorem State.noised_noised {s : State} (h : memWf s = true) (r1 c1 r2 c2 : Nat) (rest rest' : List Nat) :
    (s.noised r1 c1 r2 c2 rest').noised r1 c1 r2 c2 rest = { s with draws := rest } := by
  obtain ⟨hdim, hbright⟩ := (Bool.and_eq_true ..).mp h
  have hrow (r : Nat) : r % 25 ≤ 24 := by omega
  simp only [State.noised, bufFlip_bufFlip _ hdim (hrow r1), bufFlip_bufFlip _ hbright (hrow r2)]

/-- Settles O33: each call flips the same bit of each plane, and a flip is its own inverse. -/
theorem noiseTwiceRestoresBuffers : Obligations.NoiseTwiceRestoresBuffers := by
  intro s r1 c1 r2 c2 rest hh hwf hd
  refine ⟨{ s with draws := rest }, ?_, rfl⟩
  rw [exec_noise_of hh hd, andThen_next,
    exec_noise_of (s := s.noised r1 c1 r2 c2 (r1 :: c1 :: r2 :: c2 :: rest)) hh rfl, State.noised_noised hwf]

end Sys2Proof.Machine
end

section
/-! PROOFS. The button edge (R213 to R215): the power-down whose bytes all complete, with or without one in flight, and
BTNEDGE as the count of an edge or, at the threshold, that power-down. -/

open Sys2Proof.Claims

namespace Sys2Proof.Machine

/-! ## The power-down (R215) -/

/-- Sixteen zero bytes empty the chain: the last four leave nothing of what it held before (R42). -/
theorem pushBytes_sixteen_zeros (w : Word) : pushBytes (List.replicate 16 0x00#8) w = 0#32 := by
  have hsplit : List.replicate 16 0x00#8 = List.replicate 12 0x00#8 ++ [0x00#8, 0x00#8, 0x00#8, 0x00#8] := rfl
  rw [hsplit, pushBytes, List.foldl_append]
  exact pushBytes_four 0x00#8 0x00#8 0x00#8 0x00#8 _

theorem sentBytes_sixteen_zeros (s : State) :
    s.sentBytes (List.replicate 16 0x00#8)
      = { s with sdr := 0x00#8, shift := 0#32, serialLeft := leftAfter 16 s,
                 trace := List.replicate 16 (.byte 0x00#8) ++ s.trace } := by
  rw [State.sentBytes, pushBytes_sixteen_zeros]
  rfl

theorem powerDown_eq_afterPowerDown_of_idle {s : State} (hb : s.serBusy = false) (hc : s.completes 16 = true) :
    s.powerDown = afterPowerDown s := by
  have hbytes : powerDownBytes s = 16 := by rw [powerDownBytes, hb]; rfl
  have hrows : 4 * Config.pdZeroRows = 16 := rfl
  rw [powerDown_of hb hc, hrows, sentBytes_sixteen_zeros, afterPowerDown, hbytes]
  simp only [State.halt, State.latchPulse, State.latchSet, State.latchClear, State.writeRowsel, State.raiseHalted,
    State.emit, hb]
  rfl

/-- The byte in flight is one more completed, and the power-down overwrites what else its completion wrote. -/
theorem afterPowerDown_shiftByte {s : State} (hb : s.serBusy = true) :
    afterPowerDown s.shiftByte = afterPowerDown s := by
  have hleft : leftAfter (powerDownBytes s.shiftByte) s.shiftByte = leftAfter (powerDownBytes s) s := by
    simp [leftAfter, powerDownBytes, hb, Function.comp_def, Nat.sub_sub]
  rw [afterPowerDown, hleft]
  rfl

/-- Where all its bytes complete, the power-down runs to its end (R215). -/
theorem powerDown_eq_afterPowerDown {s : State} (hc : s.completes (powerDownBytes s) = true) :
    s.powerDown = afterPowerDown s := by
  cases hb : s.serBusy with
  | false =>
    rw [powerDownBytes, hb] at hc
    exact powerDown_eq_afterPowerDown_of_idle hb hc
  | true =>
    rw [powerDownBytes, hb] at hc
    rw [powerDown_busy hb (frozen_of_completes hc),
      powerDown_eq_afterPowerDown_of_idle (s := s.shiftByte) rfl (completes_shiftByte hc), afterPowerDown_shiftByte hb]

theorem exec_pwrdown_of {s : State} (hh : s.halted = false) : exec .pwrdown s = .next s.powerDown := running_of hh

/-! ## The edge (R213, R214) -/

theorem takeEdge_below {s : State} (h : s.pressCnt + 1 ≠ s.cfg.pressEdgeThreshold) : s.takeEdge = s.countEdge :=
  if_neg h

theorem takeEdge_threshold {s : State} (h : s.pressCnt + 1 = s.cfg.pressEdgeThreshold) :
    s.takeEdge = s.countEdge.powerDown :=
  if_pos h

/-- Settles O38: `takeEdge` in its two cases; the count does not touch the link, so the bytes that complete before it
complete after it. -/
theorem btnedgeCountsOrPowersDown : Obligations.BtnedgeCountsOrPowersDown := by
  intro s hh hcaller hcnt
  have hedge : exec .btnedge s = .next s.takeEdge := btnedge_eq_next.2 ⟨hh, hcaller, hcnt, rfl⟩
  refine ⟨fun hbelow => ?_, fun hat => ?_⟩
  · rw [hedge, takeEdge_below hbelow]; rfl
  · have hdown : exec .btnedge s = .next s.countEdge.powerDown := by rw [hedge, takeEdge_threshold hat]
    refine ⟨hdown.trans (exec_pwrdown_of (s := s.countEdge) hh).symm, fun hc => hdown.trans (congrArg _ ?_)⟩
    exact powerDown_eq_afterPowerDown (s := s.countEdge) hc

end Sys2Proof.Machine
end

section
/-! PROOFS. The operation RESET (R240): the values it puts in the registers, from any state. -/

namespace Sys2Proof.Machine

/-- RESET has no precondition: it is taken from any state, the halted one too (R34, R240). -/
theorem exec_reset (s : State) : exec .reset s = .next s.resetFrom := rfl

/-- Settles O40: both planes are the empty list, every row of which reads 0, and each other value is one that
`resetFrom` writes, whatever the register held. -/
theorem resetSetsStatedValues : Obligations.ResetSetsStatedValues := by
  intro s
  refine ⟨s.resetFrom, exec_reset s, fun r => ⟨bufRead_nil r, bufRead_nil r⟩, ?_⟩
  simp only [State.resetFrom, and_self]

end Sys2Proof.Machine
end

section
/-! PROOFS. The encoding (R80 to R98): decoding undoes encoding and encoding undoes decoding, format by format. -/

namespace Sys2Proof

/-! ## Words and their bytes (R65, R82) -/

theorem wordOfBytes_bytesOfWord (w : Word) :
    wordOfBytes (w.extractLsb' 24 8) (w.extractLsb' 16 8) (w.extractLsb' 8 8) (w.extractLsb' 0 8) = w :=
  Machine.bytes_of_word w

theorem bytesOfWord_wordOfBytes (b0 b1 b2 b3 : Byte) :
    bytesOfWord (wordOfBytes b0 b1 b2 b3) = [b0, b1, b2, b3] := by
  have hw : (wordOfBytes b0 b1 b2 b3).toNat
      = b0.toNat * 2 ^ 24 + b1.toNat * 2 ^ 16 + b2.toNat * 2 ^ 8 + b3.toNat := Machine.toNat_fourBytes b0 b1 b2 b3
  have h0 := b0.isLt; have h1 := b1.isLt; have h2 := b2.isLt; have h3 := b3.isLt
  simp only [bytesOfWord, List.cons.injEq, and_true, ← BitVec.toNat_inj, BitVec.extractLsb'_toNat, hw,
    Nat.shiftRight_eq_div_pow]
  omega

/-- A row word decodes to its columns (R81). -/
theorem decodeRowword_columns (c : BitVec 25) : decodeRowword (0#7 ++ c) = .ok (.rowword c) := by
  have hhi : (0#7 ++ c).extractLsb' 25 7 = 0#7 := BitVec.extractLsb'_append_eq_left
  have hlo : (0#7 ++ c).extractLsb' 0 25 = c := BitVec.extractLsb'_append_eq_right
  rw [decodeRowword, hhi, hlo, if_pos rfl]

/-- A word with bits 31:25 zero is its columns under seven zeros (R81). -/
theorem zero_append_columns {w : Word} (h : w.extractLsb' 25 7 = 0#7) : 0#7 ++ w.extractLsb' 0 25 = w := by
  have happ : w.extractLsb' 25 7 ++ w.extractLsb' 0 25 = w :=
    (BitVec.extractLsb'_append_extractLsb'_eq_extractLsb' rfl).trans BitVec.extractLsb'_eq_self
  rwa [h] at happ

/-! ## Decoding what was encoded -/

theorem decodeRstep_encoded {r : BitVec 5} (hr : r.toNat ≤ 24) (f : BitVec 2) (rest : List Byte) :
    decodeRstep (f.setWidth 8) (r.setWidth 8) rest = .ok (.rstep f r, rest) := by
  have hf := f.isLt
  have hfield : (f.setWidth 8).toNat = f.toNat := by rw [BitVec.toNat_setWidth]; omega
  have hrow : (r.setWidth 8).toNat = r.toNat := by rw [BitVec.toNat_setWidth]; omega
  rw [decodeRstep, hfield, hrow, if_pos (by omega), if_pos hr]
  simp

theorem decodeRowsel_reservedHi : ∀ h : BitVec 4, 11 ≤ h.toNat →
    decodeRowsel (h ++ 0#4) = .rowselReservedHi h := by decide

theorem decodeRowsel_reservedBoth : ∀ h l : BitVec 4, h ≠ 0#4 → l ≠ 0#4 →
    decodeRowsel (h ++ l) = .rowselReservedBoth h l := by decide

theorem decode_rowword (c : BitVec 25) (rest : List Byte) :
    decode .rw (bytesOfWord (0#7 ++ c) ++ rest) = .ok (.rowword c, rest) := by
  have hword : decode .rw (bytesOfWord (0#7 ++ c) ++ rest) = (decodeRowword (0#7 ++ c)).map (fun i => (i, rest)) :=
    congrArg (fun w => (decodeRowword w).map (fun i => (i, rest))) (wordOfBytes_bytesOfWord (0#7 ++ c))
  rw [hword, decodeRowword_columns]
  rfl

/-- Settles O58: an instruction without operands is a row of its format's table; the others are decoded operand by
operand. -/
theorem decodeOfEncodeIsIdentity : Obligations.DecodeOfEncodeIsIdentity := by
  intro i rest hwf
  cases i with
  | rstep f r => exact decodeRstep_encoded (of_decide_eq_true hwf) f rest
  | rowselReservedHi h =>
    exact congrArg (fun i => Except.ok (i, rest)) (decodeRowsel_reservedHi h (of_decide_eq_true hwf))
  | rowselReservedBoth h l =>
    have hnib : h ≠ 0#4 ∧ l ≠ 0#4 := by simpa [Instr.wellFormed] using hwf
    exact congrArg (fun i => Except.ok (i, rest)) (decodeRowsel_reservedBoth h l hnib.1 hnib.2)
  | rowword c => exact decode_rowword c rest
  | velM2 a | velM1 a | velP1 a | velP2 a => cases a <;> rfl
  | _ => rfl

/-! ## Encoding what was decoded -/

/-- An instruction read from the front of some bytes is well-formed and is written with the bytes taken. -/
def ReadFrom (fmt : Format) (bytes rest : List Byte) (i : Instr) : Prop :=
  i.wellFormed = true ∧ (encode i).fmt = fmt ∧ (encode i).bytes ++ rest = bytes

theorem lookupCode_mem {table : List (Nat × Instr)} {n : Nat} {i : Instr} (h : lookupCode table n = some i) :
    (n, i) ∈ table := by
  induction table with
  | nil => cases h
  | cons e table ih =>
    obtain ⟨k, j⟩ := e
    rw [lookupCode] at h
    split at h
    next hk => cases h; simp [hk]
    next => exact List.mem_cons_of_mem _ (ih h)

/-- Each operation without operands is written with its OPID alone (R93). -/
theorem encode_opidTable : ∀ e ∈ opidTable,
    e.2.wellFormed = true ∧ encode e.2 = { fmt := .opid, bytes := [BitVec.ofNat 8 e.1] } := by decide

/-- Every byte is the code of the row-select instruction it decodes to (R86, R87). -/
theorem encode_decodeRowsel : ∀ b : Byte,
    (decodeRowsel b).wellFormed = true ∧ encode (decodeRowsel b) = { fmt := .rs, bytes := [b] } := by decide

theorem readFrom_rstep {f r : Byte} {more rest : List Byte} {i : Instr}
    (h : decodeRstep f r more = .ok (i, rest)) : ReadFrom .opid (0x11#8 :: f :: r :: more) rest i := by
  unfold decodeRstep at h
  split at h
  next hf =>
    split at h
    next hr =>
      cases h
      have hfield : (f.setWidth 2).setWidth 8 = f := by apply BitVec.eq_of_toNat_eq; simp; omega
      have hrow : (r.setWidth 5).setWidth 8 = r := by apply BitVec.eq_of_toNat_eq; simp; omega
      have hwf : (r.setWidth 5).toNat ≤ 24 := by simp; omega
      refine ⟨decide_eq_true hwf, rfl, ?_⟩
      simp only [encode, hfield, hrow, List.cons_append, List.nil_append]
    next => cases h
  next => cases h

theorem readFrom_opid {b : Byte} {bytes rest : List Byte} {i : Instr} (h : decodeOpid b bytes = .ok (i, rest)) :
    ReadFrom .opid (b :: bytes) rest i := by
  unfold decodeOpid at h
  split at h
  next hb =>
    subst hb
    split at h
    next => cases h; exact ⟨rfl, rfl, rfl⟩
    next => cases h
  split at h
  next _ hb =>
    subst hb
    split at h
    next => exact readFrom_rstep h
    next => cases h
  split at h
  next _ _ hb =>
    subst hb
    split at h
    next => cases h; exact ⟨rfl, rfl, rfl⟩
    next => cases h
  next =>
    split at h
    next j hj =>
      cases h
      obtain ⟨hwf, henc⟩ := encode_opidTable _ (lookupCode_mem hj)
      refine ⟨hwf, congrArg Cmd.fmt henc, ?_⟩
      rw [henc, BitVec.ofNat_toNat, BitVec.setWidth_eq]
      rfl
    next => cases h

theorem readFrom_rowsel (b : Byte) (rest : List Byte) : ReadFrom .rs (b :: rest) rest (decodeRowsel b) := by
  obtain ⟨hwf, henc⟩ := encode_decodeRowsel b
  exact ⟨hwf, congrArg Cmd.fmt henc, congrArg (fun c => c.bytes ++ rest) henc⟩

theorem readFrom_rowword {b0 b1 b2 b3 : Byte} {i : Instr} (rest : List Byte)
    (h : decodeRowword (wordOfBytes b0 b1 b2 b3) = .ok i) : ReadFrom .rw (b0 :: b1 :: b2 :: b3 :: rest) rest i := by
  unfold decodeRowword at h
  split at h
  next hz =>
    cases h
    refine ⟨rfl, rfl, ?_⟩
    rw [encode, zero_append_columns hz, bytesOfWord_wordOfBytes]
    rfl
  next => cases h

theorem readFrom_gen {b : Byte} {i : Instr} (rest : List Byte) (h : decodeGen b = .ok i) :
    ReadFrom .gen (b :: rest) rest i := by
  unfold decodeGen at h
  split at h
  next hb => cases h; exact ⟨rfl, rfl, hb ▸ rfl⟩
  split at h
  next hb => cases h; exact ⟨rfl, rfl, hb ▸ rfl⟩
  next => cases h

theorem axisByte_of_decodeAxis {b : Byte} {a : Axis} (h : decodeAxis b = some a) : axisByte a = b := by
  unfold decodeAxis at h
  split at h
  next hb => cases h; exact hb.symm
  split at h
  next hb => cases h; exact hb.symm
  next => cases h

theorem readFrom_vel {b ab : Byte} {a : Axis} {i : Instr} (rest : List Byte) (ha : decodeAxis ab = some a)
    (h : decodeVel b a = .ok i) : ReadFrom .vel (b :: ab :: rest) rest i := by
  rw [← axisByte_of_decodeAxis ha]
  unfold decodeVel at h
  split at h
  next hb => cases h; exact ⟨rfl, rfl, hb ▸ rfl⟩
  split at h
  next hb => cases h; exact ⟨rfl, rfl, hb ▸ rfl⟩
  split at h
  next hb => cases h; exact ⟨rfl, rfl, hb ▸ rfl⟩
  split at h
  next hb => cases h; exact ⟨rfl, rfl, hb ▸ rfl⟩
  split at h
  next => cases h
  next => cases h

/-- A decoder of the code alone hands the bytes after it on. -/
theorem map_rest_eq_ok {x : Except DecodeError Instr} {i : Instr} {more rest : List Byte}
    (h : x.map (fun j => (j, more)) = .ok (i, rest)) : x = .ok i ∧ more = rest := by
  cases x with
  | error e => cases h
  | ok j => cases h; exact ⟨rfl, rfl⟩

/-- Settles O59: format by format, what each decoder accepts is written with the bytes it took. -/
theorem encodeOfDecodeIsIdentity : Obligations.EncodeOfDecodeIsIdentity := by
  intro fmt bytes i rest h
  unfold decode at h
  split at h
  next => exact readFrom_opid h
  next => cases h; exact readFrom_rowsel ..
  next =>
    obtain ⟨hi, rfl⟩ := map_rest_eq_ok h
    exact readFrom_rowword _ hi
  next => cases h; exact ⟨rfl, rfl, rfl⟩
  next =>
    obtain ⟨hi, rfl⟩ := map_rest_eq_ok h
    exact readFrom_gen _ hi
  next =>
    split at h
    next a ha =>
      obtain ⟨hi, rfl⟩ := map_rest_eq_ok h
      exact readFrom_vel _ ha hi
    next => cases h
  next => cases h
  next => cases h

end Sys2Proof
end

section
/-! PROOFS. What each instruction can write (R45, R61, R70, R155, R216): outside the Animation Engine, RESET and the
register codes only the sequencer's position, the outputs, the flags and the press counter. -/

open Sys2Proof.Claims

namespace Sys2Proof.Machine

/-! ## Outside the Animation Engine -/

/-- `t` is `s` but for the sequencer's position, the outputs, the flags, the press counter and the serial link. -/
def OutputsOnly (s t : State) : Prop :=
  t = { s with uop := t.uop, field := t.field, row := t.row, serBusy := t.serBusy, halted := t.halted,
               rowsel := t.rowsel, latch := t.latch, sdr := t.sdr, pressCnt := t.pressCnt, shift := t.shift,
               colout := t.colout, serialLeft := t.serialLeft, caller := t.caller, trace := t.trace }

theorem OutputsOnly.refl (s : State) : OutputsOnly s s := rfl

theorem OutputsOnly.trans {s t u : State} (h : OutputsOnly s t) (k : OutputsOnly t u) : OutputsOnly s u := by
  unfold OutputsOnly at *; rw [k, h]

theorem LinkOnly.outputsOnly {s t : State} (h : LinkOnly s t) : OutputsOnly s t := by
  unfold OutputsOnly; rw [h]

theorem OutputsOnly.animationKept {s t : State} (h : OutputsOnly s t) : AnimationKept s t := by
  rw [h]; exact ⟨rfl, rfl, rfl, rfl, rfl, rfl, rfl, rfl, rfl, rfl, rfl⟩

theorem OutputsOnly.cfg {s t : State} (h : OutputsOnly s t) : t.cfg = s.cfg := by rw [h]

/-- An operation that, where it completes, writes only outputs. -/
def WritesOutputs (f : State → Result) : Prop := ∀ s t : State, f s = .next t → OutputsOnly s t

theorem writesOutputs_runAll {fs : List (State → Result)} (h : ∀ f ∈ fs, WritesOutputs f) :
    WritesOutputs (runAll fs) :=
  fun s _ => runAll_keeps (P := OutputsOnly s) fs (fun f hf u v hu hv => hu.trans (h f hf u v hv)) (.refl s)

theorem writesOutputs_runHeld {fs : List (State → Result)} (h : ∀ f ∈ fs, WritesOutputs f) :
    WritesOutputs (runHeld fs) :=
  fun s _ => runHeld_keeps (P := OutputsOnly s) fs (fun f hf u v hu hv => hu.trans (h f hf u v hv)) (.refl s)

theorem writesOutputs_blankStep : WritesOutputs blankStep := by
  intro s t h
  obtain ⟨-, -, rfl⟩ := blankStep_eq_next.1 h
  rfl

theorem writesOutputs_txStep (k : Nat) : WritesOutputs (txStep k) := by
  intro s t h
  obtain ⟨-, -, -, -, rfl⟩ := txStep_eq_next.1 h
  rfl

theorem writesOutputs_waitStep (k : Nat) : WritesOutputs (waitStep k) := by
  intro s t h
  obtain ⟨-, -, rfl⟩ := waitStep_eq_next.1 h
  split <;> rfl

theorem writesOutputs_latchSetStep : WritesOutputs latchSetStep := by
  intro s t h
  obtain ⟨-, -, -, rfl⟩ := latchSetStep_eq_next.1 h
  rfl

theorem writesOutputs_latchClrStep : WritesOutputs latchClrStep := by
  intro s t h
  obtain ⟨-, -, -, rfl⟩ := latchClrStep_eq_next.1 h
  rfl

theorem writesOutputs_selRowStep : WritesOutputs selRowStep := by
  intro s t h
  obtain ⟨-, -, -, -, rfl⟩ := selRowStep_eq_next.1 h
  rfl

theorem writesOutputs_settleStep : WritesOutputs settleStep := by
  intro s t h
  obtain ⟨-, -, -, rfl⟩ := settleStep_eq_next.1 h
  rfl

theorem writesOutputs_codeStep (v : Byte) : WritesOutputs (codeStep v) := by
  intro s t h
  obtain ⟨-, -, rfl⟩ := codeStep_eq_next.1 h
  rfl

theorem writesOutputs_transmitStep (b0 b1 b2 b3 : Byte) : WritesOutputs (transmitStep b0 b1 b2 b3) := by
  intro s t h
  obtain ⟨-, -, rfl⟩ := transmitStep_eq_next.1 h
  exact ((linkOnly_sendRow b0 b1 b2 b3 s).trans (linkOnly_holdAs _ _)).outputsOnly

theorem writesOutputs_byteStep (k : Nat) : WritesOutputs (byteStep k) := by
  have hshift : WritesOutputs (always State.tryShift) := by
    intro s t h
    obtain rfl := next_eq_next.1 h
    exact (linkOnly_tryShift s).outputsOnly
  exact writesOutputs_runAll (by simp [writesOutputs_txStep, hshift, writesOutputs_waitStep])

/-- A row step is guards around its parts. -/
theorem writesOutputs_rowStep (f : BitVec 2) (r : BitVec 5) : WritesOutputs (rowStep f r) := by
  have hparts : WritesOutputs (runHeld stepParts) := writesOutputs_runHeld (by
    simp [stepParts, writesOutputs_blankStep, writesOutputs_byteStep, writesOutputs_latchSetStep,
      writesOutputs_latchClrStep, writesOutputs_selRowStep, writesOutputs_settleStep])
  intro s t h
  obtain ⟨-, h⟩ := running_eq_next.1 h
  obtain ⟨-, h⟩ := require_eq_next.1 h
  obtain ⟨-, h⟩ := atSeq_eq_next.1 h
  exact hparts s t (whenIdle_eq_next.1 h).2

theorem writesOutputs_frameScan : WritesOutputs frameScan := by
  have hrow (f : BitVec 2) : ∀ g ∈ fieldSteps f, WritesOutputs g := by
    intro g hg
    obtain ⟨r, -, rfl⟩ := List.mem_map.1 hg
    exact writesOutputs_rowStep f _
  intro s t h
  obtain ⟨-, h⟩ := running_eq_next.1 h
  obtain ⟨-, h⟩ := atSeq_eq_next.1 h
  refine writesOutputs_runHeld ?_ s t (whenIdle_eq_next.1 h).2
  simp only [List.mem_append]
  rintro g (((hg | hg) | hg) | hg) <;> exact hrow _ g hg

theorem writesOutputs_execSershift : WritesOutputs execSershift := by
  intro s t h
  obtain ⟨-, -, -, rfl⟩ := sershift_eq_next.1 h
  rfl

theorem outputsOnly_takeEdge (s : State) : OutputsOnly s s.takeEdge := by
  have hcount : OutputsOnly s s.countEdge := rfl
  unfold State.takeEdge
  split
  · exact hcount.trans (linkOnly_powerDown _).outputsOnly
  · exact hcount

theorem writesOutputs_execBtnedge : WritesOutputs execBtnedge := by
  intro s t h
  obtain ⟨-, -, -, rfl⟩ := btnedge_eq_next.1 h
  exact outputsOnly_takeEdge s

theorem linkOnly_sendByte (v : Byte) (s : State) : LinkOnly s (s.sendByte v) :=
  LinkOnly.trans (t := s.startByte v) rfl (linkOnly_tryShift _)

theorem sendbyte_eq_next {v : Byte} {s t : State} :
    execSendbyte v s = .next t ↔ s.halted = false ∧ s.serBusy = false ∧ t = (s.sendByte v).holdAs .written := by
  simp [execSendbyte, running_eq_next, whenIdle_eq_next, eq_comm (a := t)]

theorem writesOutputs_execSendbyte (v : Byte) : WritesOutputs (execSendbyte v) := by
  intro s t h
  obtain ⟨-, -, rfl⟩ := sendbyte_eq_next.1 h
  exact ((linkOnly_sendByte v s).trans (linkOnly_holdAs _ _)).outputsOnly

/-- All an instruction that does not write the animation record can write. -/
theorem exec_writesOutputs {i : Instr} (hi : writesAnimation i = false) : WritesOutputs (exec i) := by
  cases i with
  | blank => exact writesOutputs_blankStep
  | tx0 | tx1 | tx2 | tx3 => exact writesOutputs_txStep _
  | wait0 | wait1 | wait2 | wait3 => exact writesOutputs_waitStep _
  | latchset => exact writesOutputs_latchSetStep
  | latchclr => exact writesOutputs_latchClrStep
  | selrow => exact writesOutputs_selRowStep
  | settle => exact writesOutputs_settleStep
  | transmit b0 b1 b2 b3 | rowburst b0 b1 b2 b3 => exact writesOutputs_transmitStep b0 b1 b2 b3
  | rowword c => exact writesOutputs_transmitStep _ _ _ _
  | rstep f r => exact writesOutputs_rowStep f r
  | rframe => exact writesOutputs_frameScan
  | sendbyte v => exact writesOutputs_execSendbyte v
  | sershift => exact writesOutputs_execSershift
  | btnedge => exact writesOutputs_execBtnedge
  | pwrdown =>
    intro s t h
    obtain ⟨-, h⟩ := running_eq_next.1 h
    exact next_eq_next.1 h ▸ (linkOnly_powerDown s).outputsOnly
  | rowselNone =>
    intro s t h
    obtain ⟨-, h⟩ := running_eq_next.1 h
    exact next_eq_next.1 h ▸ rfl
  | rowselReservedHi h | rowselReservedBoth h l => intro s t ht; cases ht
  | atick | frame | run | ball | erase | bounce | move | draw | noise | reset | genBall | genNoise | velM2 a | velM1 a
  | velP1 a | velP2 a => cases hi
  | _ => exact writesOutputs_codeStep _

/-- Settles O52: what such an instruction can write is no part of the buffers, the record or the random source. -/
theorem onlyEngineWritesAnimation : Obligations.OnlyEngineWritesAnimation :=
  fun _ s t hi h => (exec_writesOutputs hi s t h).animationKept

/-! ## The Animation Engine (R155) -/

/-- `t` is `s` but for the planes, the animation record, the random source and the sequencer's position. -/
def EngineOnly (s t : State) : Prop :=
  t = { s with dim := t.dim, bright := t.bright, gen := t.gen, frameCtr := t.frameCtr, ballPace := t.ballPace,
               ballX := t.ballX, ballY := t.ballY, ballDx := t.ballDx, ballDy := t.ballDy, uop := t.uop,
               field := t.field, row := t.row, draws := t.draws, freeCount := t.freeCount }

theorem EngineOnly.outputsKept {s t : State} (h : EngineOnly s t) : OutputsKept s t := by
  rw [h]; exact ⟨rfl, rfl, rfl, rfl, rfl, rfl, rfl, rfl, rfl, rfl, rfl, rfl, rfl, rfl⟩

theorem EngineOnly.cfg {s t : State} (h : EngineOnly s t) : t.cfg = s.cfg := by rw [h]

theorem GeneratorOnly.engineOnly {s t : State} (h : GeneratorOnly s t) : EngineOnly s t := by
  unfold EngineOnly; rw [h]

/-- Counting the call and moving SEQ on are the engine's own writes. -/
theorem GeneratorOnly.engineOnly_counted {s t : State} (h : GeneratorOnly s t) (u : BitVec 4) (f : BitVec 2)
    (r : BitVec 5) : EngineOnly s (t.countCall.setSeq u f r) := by
  unfold EngineOnly State.countCall
  split <;> rw [h] <;> rfl

theorem engineOnly_atickStep {s t : State} (h : atickStep s = .next t) : EngineOnly s t := by
  obtain ⟨-, -, -, u, hu, rfl⟩ := atickStep_eq_next.1 h
  exact (isGeneratorPart_runGenerator s u hu).engineOnly_counted ..

/-- FRAME is ATICK and then RFRAME (R200). -/
theorem frameStep_eq (s : State) : frameStep s = andThen (atickStep s) frameScan :=
  congrArg (andThen (atickStep s)) (funext fun t => andThen_next_right (frameScan t))

/-- ATICK, the generators and their parts. -/
theorem exec_engineOnly {i : Instr} (hi : i ∈ [Instr.atick, .ball, .erase, .bounce, .move, .draw, .noise])
    {s t : State} (h : exec i s = .next t) : EngineOnly s t := by
  have hpart {f : State → Result} (hf : IsGeneratorPart f) (ht : running f s = .next t) : EngineOnly s t :=
    (hf s t (running_eq_next.1 ht).2).engineOnly
  simp only [List.mem_cons, List.not_mem_nil, or_false] at hi
  obtain rfl | rfl | rfl | rfl | rfl | rfl | rfl := hi
  · exact engineOnly_atickStep h
  · exact hpart isGeneratorPart_ballCall h
  · exact hpart isGeneratorPart_eraseBlock h
  · exact hpart isGeneratorPart_bounceBall h
  · exact hpart isGeneratorPart_moveBall h
  · exact hpart isGeneratorPart_drawGlyph h
  · exact hpart isGeneratorPart_noiseCall h

/-- Settles O53: what the engine can write is no output, no flag and no event. -/
theorem generatorsKeepOutputs : Obligations.GeneratorsKeepOutputs :=
  fun _ _ _ hi h => (exec_engineOnly hi h).outputsKept

/-! ## The parameters (R45) -/

theorem exec_loads_cfg {f : State → State} (hf : ∀ s, (f s).cfg = s.cfg) {s t : State}
    (h : running (always f) s = .next t) : t.cfg = s.cfg :=
  next_eq_next.1 (running_eq_next.1 h).2 ▸ hf s

/-- Settles O55: the two frames above leave the parameters out, and so do the loads, RESET and what RUN drops. -/
theorem parametersNeverChange : Obligations.ParametersNeverChange := by
  intro i s t h
  by_cases hw : writesAnimation i = false
  · exact (exec_writesOutputs hw s t h).cfg
  cases i with
  | atick | ball | erase | bounce | move | draw | noise => exact (exec_engineOnly (by simp) h).cfg
  | frame =>
    obtain ⟨u, hu, h⟩ := andThen_eq_next.1 ((frameStep_eq s).symm.trans h)
    exact (writesOutputs_frameScan u t h).cfg.trans (engineOnly_atickStep hu).cfg
  | run =>
    obtain ⟨u, hu, h⟩ := andThen_eq_next.1 h
    exact next_eq_next.1 h ▸ (engineOnly_atickStep hu).cfg
  | reset => exact next_eq_next.1 h ▸ rfl
  | genBall | genNoise => exact exec_loads_cfg (State.loadGen_cfg _) h
  | velM2 a | velM1 a | velP1 a | velP2 a => exact exec_loads_cfg (State.loadVel_cfg a _) h
  | _ => exact absurd rfl hw

/-! ## The step (R70, R202, R203) -/

theorem setEdges_outputsOnly_congr {e : List Nat} {s t : State} (h : OutputsOnly (s.setEdges e) t) :
    t.dim = s.dim ∧ t.bright = s.bright := by
  rw [h]; exact ⟨rfl, rfl⟩

theorem not_writesAnimation_of_uopInstr {u : BitVec 4} {i : Instr} (hi : uopInstr u = some i) (hu : u ≠ 13#4) :
    writesAnimation i = false := by
  have key : ∀ u : BitVec 4, ∀ i ∈ (uopInstr u).toList, u ≠ 13#4 → writesAnimation i = false := by decide
  exact key u i (by simp [hi]) hu

/-- The agent of a step away from ATICK writes no animation record. -/
theorem not_writesAnimation_of_agentOf {i : Instr} {s : State} (hi : AgentOf i s) (hu : s.uop ≠ 13#4) :
    writesAnimation i = false := by
  rcases hi with ⟨-, -, rfl⟩ | ⟨-, hi⟩
  · rfl
  · exact not_writesAnimation_of_uopInstr hi hu

/-- An edge that is due comes first (R202, R213). -/
theorem step_edgeDue {s : State} {rest : List Nat} (hw : s.written = []) (hd : stateDefect s = none)
    (hh : s.halted = false) (hc : s.caller ≠ .handler) (he : s.edges = 0 :: rest) :
    step s = exec .btnedge (s.setEdges rest) := by
  rw [step_free hw hd hh hc]
  simp only [pickFree, he, outcome_perform]
  rfl

/-- Settles O51: the agent of such a step is none that writes the animation record. -/
theorem scanNeverChangesBuffers : Obligations.ScanNeverChangesBuffers := by
  intro s t hw hscan h
  have hkept {i : Instr} {e : List Nat} (hi : writesAnimation i = false) (ht : exec i (s.setEdges e) = .next t) :
      t.dim = s.dim ∧ t.bright = s.bright :=
    setEdges_outputsOnly_congr (exec_writesOutputs hi _ t ht)
  obtain ⟨hh, hd, e, ⟨-, rfl⟩ | ⟨i, hc, ht, hi⟩⟩ := step_free_cases hw h
  · exact ⟨rfl, rfl⟩
  · rcases hscan with hu | ⟨rest, he⟩
    · rcases hi with rfl | hi
      · exact hkept rfl ht
      · exact hkept (not_writesAnimation_of_agentOf hi hu) ht
    · exact hkept (i := .btnedge) rfl ((step_edgeDue hw hd hh hc he).symm.trans h)

end Sys2Proof.Machine
end

section
/-! PROOFS. The generators under ATICK (R155 to R159, R173, R180, R191): what NOISE writes for any draws, that BALL
completes and ends on its glyph, and the schedule that the count of calls makes of them. -/

open Sys2Proof.Claims

namespace Sys2Proof.Machine

/-! ## NOISE, whatever is drawn (R191) -/

/-- The bit of plane `p` that the first two draws name flipped, and those two draws taken. -/
def State.toggled (p : Plane) (s : State) : State :=
  State.setPlane p (bufFlip (s.plane p) (s.drawn % 25) (s.afterDraw.drawn % 25)) s.afterDraw.afterDraw

@[simp] theorem State.plane_afterDraw (p : Plane) (s : State) : s.afterDraw.plane p = s.plane p := by
  cases p <;> simp [State.plane]

theorem toggleBit_next (p : Plane) (s : State) : toggleBit p s = .next (s.toggled p) := by
  rw [toggleBit_eq, State.setWord, State.word, State.plane_afterDraw, State.plane_afterDraw]
  rfl

theorem noiseCall_next (s : State) : noiseCall s = .next ((s.toggled .dim).toggled .bright) := by
  rw [noiseCall, runAll_cons, toggleBit_next, andThen_next, runAll_cons, toggleBit_next]
  rfl

theorem exec_noise {s : State} (hh : s.halted = false) : exec .noise s = noiseCall s := running_of hh

/-- The random source reads and writes nothing but itself, so planes set meanwhile do not matter to it. -/
theorem State.afterDraw_setPlane (p : Plane) (b : Buffer) (s : State) :
    (s.setPlane p b).afterDraw = s.afterDraw.setPlane p b := by
  cases p <;> cases hd : s.draws <;> simp [State.afterDraw, State.setPlane, hd]

theorem State.drawn_setPlane (p : Plane) (b : Buffer) (s : State) : (s.setPlane p b).drawn = s.drawn := by
  cases p <;> rfl

/-- The state after NOISE: Dim's bit flipped by the first two draws, Bright's by the other two (R191). -/
theorem toggled_toggled (s : State) :
    (s.toggled .dim).toggled .bright = { s.afterDraw.afterDraw.afterDraw.afterDraw with
      dim := bufFlip s.dim (s.drawn % 25) (s.afterDraw.drawn % 25)
      bright := bufFlip s.bright (s.afterDraw.afterDraw.drawn % 25) (s.afterDraw.afterDraw.afterDraw.drawn % 25) } := by
  simp only [State.toggled, State.afterDraw_setPlane, State.drawn_setPlane]
  simp [State.setPlane, State.plane]

/-- A flip read with the column's mask written out (R89). -/
theorem bufRead_flip_shift (b : Buffer) (r c q : Nat) :
    bufRead (bufFlip b r c) q = if q = r then bufRead b q ^^^ (1#32 <<< c) else bufRead b q := by
  rw [bufRead_flip]
  split
  next hq => rw [hq]; rfl
  next => rfl

/-- Settles O31: NOISE flips one bit of each plane, and a flip is read as the exclusive or with the column's mask. -/
theorem noiseTogglesOneBitPerPlane : Obligations.NoiseTogglesOneBitPerPlane := by
  intro s hh
  refine ⟨_, (exec_noise hh).trans (noiseCall_next s), ?_⟩
  rw [toggled_toggled]
  exact ⟨rfl, fun r => bufRead_flip_shift .., fun r => bufRead_flip_shift ..⟩

/-- Settles O32: supplied draws make NOISE the state `noised`, each plane read through its flip. -/
theorem noiseTakesSuppliedDraws : Obligations.NoiseTakesSuppliedDraws :=
  fun s r1 c1 r2 c2 rest hh hd => ⟨s.noised r1 c1 r2 c2 rest, exec_noise_of hh hd, rfl,
    fun _ => bufRead_flip_shift .., fun _ => bufRead_flip_shift ..⟩

/-! ## BOUNCE with supplied draws (R173, R231) -/

theorem speedOf_of_mem {d : Nat} (hd : d = 1 ∨ d = 2) : speedOf d = d := by
  obtain rfl | rfl := hd <;> rfl

theorem natAbs_bouncedVel {p : BitVec 5} (hp : p.toNat = 0 ∨ p.toNat = 21) (v : BitVec 3) {d : Nat}
    (hd : d = 1 ∨ d = 2) : (bouncedVel p v d).toInt.natAbs = d := by
  have hint : (bouncedVel p v d).toInt = if v.toInt < 0 then (d : Int) else -d := by
    rw [bouncedVel, if_pos ((atBoundary_iff p).2 hp), toInt_reverseVel v (speedOf_eq_one_or_two d), speedOf_of_mem hd]
  rw [hint]
  split <;> omega

theorem bounceX_atBoundary {s : State} {d : Nat} {rest : List Nat} (hx : s.ballX.toNat = 0 ∨ s.ballX.toNat = 21)
    (hd : s.draws = d :: rest) : s.bounceX.draws = rest := by
  rw [State.bounceX, if_pos ((atBoundary_iff _).2 hx), State.afterDraw_of hd]

theorem bounceX_inside {s : State} (hx : ¬ (s.ballX.toNat = 0 ∨ s.ballX.toNat = 21)) : s.bounceX = s :=
  if_neg (mt (atBoundary_iff _).1 hx)

theorem bounceY_atBoundary {s : State} {d : Nat} {rest : List Nat} (hy : s.ballY.toNat = 0 ∨ s.ballY.toNat = 21)
    (hd : s.draws = d :: rest) : s.bounceY.draws = rest := by
  rw [State.bounceY, if_pos ((atBoundary_iff _).2 hy), State.afterDraw_of hd]

theorem bounceY_inside {s : State} (hy : ¬ (s.ballY.toNat = 0 ∨ s.ballY.toNat = 21)) : s.bounceY = s :=
  if_neg (mt (atBoundary_iff _).1 hy)

/-- Settles O27: the horizontal half takes the first draw if it is at a boundary, and the vertical half the next. -/
theorem bounceTakesSuppliedDraws : Obligations.BounceTakesSuppliedDraws := by
  intro s m n rest hh hok hd hm hn
  have hY : s.bounceX.ballY = s.ballY := (velocityOnly_bounceX s).ballY
  refine ⟨s.bounced, exec_bounce_of hh hok, fun hx => ?_, fun hx hy => ⟨?_, ?_⟩, fun hx hy => ?_, fun hx hy => ⟨?_, ?_⟩,
    fun hx hy => ?_⟩
  · rw [State.bounced_ballDx, State.drawn_of hd, natAbs_bouncedVel hx _ hm]
  · rw [State.bounced_ballDy, State.drawn_of (bounceX_atBoundary hx hd), natAbs_bouncedVel hy _ hn]
  · exact bounceY_atBoundary (hY ▸ hy) (bounceX_atBoundary hx hd)
  · rw [State.bounced, bounceY_inside (hY ▸ hy), bounceX_atBoundary hx hd]
  · rw [State.bounced_ballDy, bounceX_inside hx, State.drawn_of hd, natAbs_bouncedVel hy _ hm]
  · rw [State.bounced, bounceX_inside hx, bounceY_atBoundary hy hd]
  · rw [State.bounced, bounceX_inside hx, bounceY_inside hy]

/-! ## BALL ends on its glyph (R171, R180) -/

theorem glyphAt_congr {s t : State} (hx : t.ballX = s.ballX) (hy : t.ballY = s.ballY) (hc : t.cfg = s.cfg)
    (p : Plane) (r : Nat) : glyphAt t p r = glyphAt s p r := by
  simp only [glyphAt, hx, hy, hc]

theorem inBlock_congr {s t : State} (hy : t.ballY = s.ballY) (r : Nat) : inBlock t r ↔ inBlock s r := by
  rw [inBlock, inBlock, hy]

/-- BALL is ERASE, the paced middle and DRAW, wherever its first guards let it begin. -/
theorem ballCall_of_position {s : State} (hx : s.ballX.toNat ≤ 21) (hy : s.ballY.toNat ≤ 21)
    (hp : s.ballPace.toNat ≤ 9) :
    ∃ t, BlockModified (erasedWord s) s t ∧ ballCall s = andThen (paceBall t) drawGlyph := by
  obtain ⟨t, ht, herased⟩ := eraseBlock_of hx hy
  refine ⟨t, herased, ?_⟩
  rw [ballCall, require_of (decide_eq_true hp), runAll_cons, ht, andThen_next, runAll_cons]
  exact congrArg _ (funext fun _ => andThen_next_right _)

/-- Settles O29: DRAW finds the block's words masked by ERASE, at the same position. -/
theorem ballCallWithoutAdvance : Obligations.BallCallWithoutAdvance := by
  intro s hh hx hy hp
  obtain ⟨t, ⟨hframe, herased⟩, hball⟩ := ballCall_of_position hx hy hp.le
  have htX : t.ballX = s.ballX := by rw [hframe]
  have htY : t.ballY = s.ballY := by rw [hframe]
  have htC : t.cfg = s.cfg := by rw [hframe]
  have htP : t.ballPace = s.ballPace := by rw [hframe]
  obtain ⟨u, hu, hdrawnFrame, hdrawn⟩ :=
    drawGlyph_of (s := { t with ballPace := t.ballPace + 1#4 }) (htX ▸ hx) (htY ▸ hy)
  refine ⟨u, ?_, ?_, fun p r => ⟨fun hin => ?_, fun hout => ?_⟩⟩
  · rw [exec_ball hh, hball, paceBall_below (htP ▸ hp), andThen_next, hu]
  · rw [hdrawnFrame, hframe]
  · have hglyph : glyphAt { t with ballPace := t.ballPace + 1#4 } p r = glyphAt s p r := glyphAt_congr htX htY htC p r
    refine ((hdrawn p r).1 ((inBlock_congr htY r).2 hin)).trans ?_
    rw [drawnWord, hglyph]
    exact congrArg (· ||| glyphAt s p r) ((herased p r).1 hin)
  · exact ((hdrawn p r).2 (mt (inBlock_congr htY r).1 hout)).trans ((herased p r).2 hout)

/-- The block at the ball's position contains the glyph, in each plane. -/
def ShowsGlyph (s : State) : Prop :=
  ∀ (p : Plane) (r : Nat), inBlock s r → s.word p r &&& glyphAt s p r = glyphAt s p r

theorem showsGlyph_of_drawn {s t : State} (h : BlockModified (drawnWord s) s t) : ShowsGlyph t := by
  obtain ⟨hframe, hdrawn⟩ := h
  have hX : t.ballX = s.ballX := by rw [hframe]
  have hY : t.ballY = s.ballY := by rw [hframe]
  have hC : t.cfg = s.cfg := by rw [hframe]
  intro p r hin
  rw [glyphAt_congr hX hY hC, (hdrawn p r).1 ((inBlock_congr hY r).1 hin), drawnWord]
  ext i
  simpa using Or.inr

/-- The paced middle completes, and the record stays a reachable one. -/
theorem paceBall_completes {s : State} (h : ballReady s) : ∃ t, paceBall s = .next t ∧ ballReady t := by
  obtain ⟨hok, hp⟩ := h
  by_cases hlt : s.ballPace.toNat < 9
  · refine ⟨_, paceBall_below hlt, hok, ?_⟩
    show (s.ballPace + 1#4).toNat ≤ 9
    rw [BitVec.toNat_add]
    simp only [BitVec.toNat_ofNat]
    omega
  · have hnine : s.ballPace = 9#4 := BitVec.eq_of_toNat_eq (by simp; omega)
    refine ⟨_, paceBall_tenth hok hnine, ballOk_advanced hok, ?_⟩
    rw [State.advanced_ballPace]
    decide

theorem ballReady_of_buffersOnly {s t : State} (h : BuffersOnly s t) (hs : ballReady s) : ballReady t :=
  ⟨h.ballOk.trans hs.1, h.ballPace ▸ hs.2⟩

theorem ballCall_completes {s : State} (h : ballReady s) :
    ∃ t, ballCall s = .next t ∧ ballReady t ∧ ShowsGlyph t := by
  obtain ⟨hx, hy, -, -⟩ := ballOk_iff.1 h.1
  obtain ⟨t, herased, hball⟩ := ballCall_of_position hx hy h.2
  obtain ⟨u, hu, huReady⟩ := paceBall_completes (ballReady_of_buffersOnly herased.1 h)
  obtain ⟨hux, huy, -, -⟩ := ballOk_iff.1 huReady.1
  obtain ⟨v, hv, hdrawn⟩ := drawGlyph_of hux huy
  exact ⟨v, by rw [hball, hu, andThen_next, hv], ballReady_of_buffersOnly hdrawn.1 huReady, showsGlyph_of_drawn hdrawn⟩

/-! ## ATICK completes (R155, R158) -/

/-- The ball's registers are as they were. -/
def BallKept (s t : State) : Prop :=
  t.ballX = s.ballX ∧ t.ballY = s.ballY ∧ t.ballDx = s.ballDx ∧ t.ballDy = s.ballDy ∧ t.ballPace = s.ballPace

theorem ballReady_of_ballKept {s t : State} (h : BallKept s t) (hs : ballReady s) : ballReady t := by
  obtain ⟨hx, hy, hdx, hdy, hp⟩ := h
  rwa [ballReady, ballOk, hx, hy, hdx, hdy, hp]

theorem ballKept_toggled_toggled (s : State) : BallKept s ((s.toggled .dim).toggled .bright) := by
  rw [toggled_toggled]
  simp [BallKept]

theorem runGenerator_completes {s : State} (h : ballReady s) :
    ∃ t, runGenerator s = .next t ∧ ballReady t ∧ (s.gen = .noise → BallKept s t) ∧ (s.gen = .ball → ShowsGlyph t) := by
  unfold runGenerator
  cases hg : s.gen with
  | ball =>
    obtain ⟨t, ht, hready, hglyph⟩ := ballCall_completes h
    exact ⟨t, ht, hready, nofun, fun _ => hglyph⟩
  | noise =>
    have hkept := ballKept_toggled_toggled s
    exact ⟨_, noiseCall_next s, ballReady_of_ballKept hkept h, fun _ => hkept, nofun⟩

theorem budget_le (g : Gen) : budget g ≤ 5000 := by cases g <;> decide

/-- The count never reaches the budget it is held against, since there the generator switches. -/
theorem counterReady_countCall (s : State) : counterReady s.countCall := by
  by_cases hlt : s.frameCtr.toNat + 1 < budget s.gen
  · have hb := budget_le s.gen
    rw [countCall_below hlt, counterReady, BitVec.toNat_ofNat, Nat.mod_eq_of_lt (by omega)]
    exact hlt
  · have hpos (g : Gen) : 0 < budget g := by cases g <;> decide
    rw [countCall_atBudget (Nat.not_lt.1 hlt)]
    exact hpos _

/-- All ATICK does from a reachable record: the generator, the count and SEQ at (BLANK, 0, 0). -/
theorem atickStep_completes {s : State} (hh : s.halted = false) (hu : s.uop = 13#4) (hf : s.field = 0#2)
    (hr : s.row = 0#5) (hc : counterReady s) (hb : ballReady s) :
    ∃ t, runGenerator s = .next t ∧ atickStep s = .next (t.countCall.setSeq 0#4 0#2 0#5)
      ∧ GeneratorOnly s t ∧ counterReady (t.countCall.setSeq 0#4 0#2 0#5)
      ∧ ballReady (t.countCall.setSeq 0#4 0#2 0#5) := by
  obtain ⟨t, ht, hready, -, -⟩ := runGenerator_completes hb
  have hframe : GeneratorOnly s t := isGeneratorPart_runGenerator s t ht
  refine ⟨t, ht, ?_, hframe, counterReady_countCall t, ?_⟩
  · rw [atickStep_of hh hu hf hr hc, ht, andThen_next]
  · exact ballReady_of_ballKept (by simp [BallKept]) hready

/-- Settles O22: counting the call and moving SEQ touch neither the ball nor the planes. -/
theorem atickCompletesKeepingOutputs : Obligations.AtickCompletesKeepingOutputs := by
  intro s hh hu hf hr hc hb
  obtain ⟨t, ht, hstep, -, hcount, hready⟩ := atickStep_completes hh hu hf hr hc hb
  obtain ⟨t', ht', -, hnoise, hball⟩ := runGenerator_completes hb
  obtain rfl : t' = t := next_eq_next.1 (ht.symm.trans ht')
  refine ⟨_, hstep, (engineOnly_atickStep hstep).outputsKept, rfl, rfl, rfl, hcount, hready, fun hg => ?_, fun hg => ?_⟩
  · simpa [BallKept] using hnoise hg
  · intro p r hin
    have hword : (t'.countCall.setSeq 0#4 0#2 0#5).word p r = t'.word p r := by cases p <;> simp [State.word, State.plane]
    rw [hword, glyphAt_congr (s := t') (by simp) (by simp) (by simp)]
    exact hball hg p r ((inBlock_congr (by simp) r).1 hin)

/-! ## The schedule (R159) -/

/-- The engine has made `m` calls of a cycle of 5000 Ball and 1000 Noise calls. -/
def InPhase (m : Nat) (s : State) : Prop :=
  if m < 5000 then s.gen = .ball ∧ s.frameCtr.toNat = m else s.gen = .noise ∧ s.frameCtr.toNat = m - 5000

theorem InPhase.counterReady {m : Nat} {s : State} (hm : m < 6000) (h : InPhase m s) : counterReady s := by
  unfold InPhase at h
  split at h
  next hlt => rw [Claims.counterReady, h.1, h.2]; exact hlt
  next hge =>
    rw [Claims.counterReady, h.1, h.2]
    show m - 5000 < 1000
    omega

theorem toNat_countCall_below {s : State} (h : s.frameCtr.toNat + 1 < budget s.gen) :
    s.countCall.gen = s.gen ∧ s.countCall.frameCtr.toNat = s.frameCtr.toNat + 1 := by
  have hb := budget_le s.gen
  rw [countCall_below h]
  exact ⟨rfl, by rw [BitVec.toNat_ofNat, Nat.mod_eq_of_lt (by omega)]⟩

/-- One more call counted: the count goes on, and at either budget the next generator begins at 0. -/
theorem InPhase.countCall {m : Nat} {s : State} (hm : m < 6000) (h : InPhase m s) :
    InPhase ((m + 1) % 6000) s.countCall := by
  unfold InPhase at h
  split at h
  next hball =>
    obtain ⟨hg, hc⟩ := h
    by_cases hlt : m + 1 < 5000
    · obtain ⟨hg', hc'⟩ := toNat_countCall_below (s := s) (by rw [hg, hc]; exact hlt)
      rw [InPhase, Nat.mod_eq_of_lt (by omega), if_pos hlt, hg', hc', hg, hc]
      exact ⟨rfl, rfl⟩
    · obtain rfl : m = 4999 := by omega
      rw [countCall_atBudget (by rw [hg, hc]; decide), hg]
      exact ⟨rfl, rfl⟩
  next hnoise =>
    obtain ⟨hg, hc⟩ := h
    by_cases hlt : m + 1 < 6000
    · obtain ⟨hg', hc'⟩ := toNat_countCall_below (s := s) (by rw [hg, hc]; show m - 5000 + 1 < 1000; omega)
      rw [InPhase, Nat.mod_eq_of_lt hlt, if_neg (by omega), hg', hc', hg, hc]
      exact ⟨rfl, by omega⟩
    · obtain rfl : m = 5999 := by omega
      rw [countCall_atBudget (by rw [hg, hc]; decide), hg]
      exact ⟨rfl, rfl⟩

theorem InPhase.congr {m : Nat} {s t : State} (hg : t.gen = s.gen) (hc : t.frameCtr = s.frameCtr) (h : InPhase m s) :
    InPhase m t := by
  rwa [InPhase, hg, hc]

/-- `n` calls from anywhere in the cycle. -/
theorem repeatInstr_atick {n m : Nat} {s : State} (hm : m < 6000) (hh : s.halted = false) (hb : ballReady s)
    (h : InPhase m s) : NextWith (repeatInstr .atick n s) (InPhase ((m + n) % 6000)) := by
  induction n generalizing m s with
  | zero => exact ⟨s, rfl, by rwa [Nat.add_zero, Nat.mod_eq_of_lt hm]⟩
  | succ n ih =>
    obtain ⟨t, -, hstep, hframe, -, hready⟩ :=
      atickStep_completes (s := s.entry .atick) hh rfl rfl rfl (h.counterReady hm) hb
    have hcounted : InPhase ((m + 1) % 6000) (t.countCall.setSeq 0#4 0#2 0#5) :=
      (h.congr (t := t) hframe.gen hframe.frameCtr).countCall hm
    have hht : (t.countCall.setSeq 0#4 0#2 0#5).halted = false := by
      rw [State.setSeq_halted, State.countCall_halted, hframe]; exact hh
    obtain ⟨u, hu, hphase⟩ := ih (Nat.mod_lt _ (by decide)) hht hready hcounted
    refine ⟨u, ?_, ?_⟩
    · rw [repeatInstr]
      exact (congrArg (andThen · _) hstep).trans hu
    · rwa [Nat.mod_add_mod, Nat.add_assoc, Nat.add_comm 1 n] at hphase

/-- Settles O23: a fresh Ball run stands at the beginning of the cycle. -/
theorem generatorScheduleClosedForm : Obligations.GeneratorScheduleClosedForm := by
  intro n s hh hg hc hb
  have hfresh : InPhase 0 s := ⟨hg, by rw [hc]; rfl⟩
  have hrun := repeatInstr_atick (n := n) (by decide) hh hb hfresh
  rwa [Nat.zero_add] at hrun

end Sys2Proof.Machine
end

section
/-! PROOFS. The serial link with bytes that need not all complete (R111, R115, R226, R227): what the chain holds of a
word so far, a burst and a power-down held at a byte, and the power-down that runs to its end. -/

open Sys2Proof.Claims

namespace Sys2Proof.Machine

theorem exec_waitOf {k : Nat} (hk : k < 4) (s : State) : exec (waitOf k) s = waitStep k s := by
  match k, hk with
  | 0, _ | 1, _ | 2, _ | 3, _ => rfl

/-- Settles O2: at its own UOP `waitStep` looks at SER_BUSY alone. -/
theorem waitHoldsThenMovesOn : Obligations.WaitHoldsThenMovesOn := by
  intro k s hk hh hu
  rw [exec_waitOf hk]
  exact waitStep_eq_next.2 ⟨hh, (uop_eq_ofNat_iff (by omega)).2 hu, rfl⟩

/-! ## What the chain holds (R42) -/

theorem pushBytes_concat (bs : List Byte) (b : Byte) (w : Word) :
    pushBytes (bs ++ [b]) w = (pushBytes bs w <<< 8) ||| b.setWidth 32 := by
  rw [pushBytes, List.foldl_append]
  exact pushByte_eq_shift (pushBytes bs w) b

theorem pushBytes_zeros (k : Nat) (w : Word) : pushBytes (List.replicate k 0x00#8) w = w <<< (8 * k) := by
  induction k with
  | zero => exact (BitVec.shiftLeft_zero w).symm
  | succ k ih =>
    rw [List.replicate_succ', pushBytes_concat, ih, Nat.mul_succ, BitVec.shiftLeft_add]
    exact BitVec.or_zero

/-- The first `n` bytes of a word, most significant first (R82). -/
def firstBytes (n : Nat) (w : Word) : List Byte := (List.range n).map (fun k => byteAt k w)

@[simp] theorem length_firstBytes (n : Nat) (w : Word) : (firstBytes n w).length = n := by simp [firstBytes]

theorem firstBytes_succ (n : Nat) (w : Word) : firstBytes (n + 1) w = firstBytes n w ++ [byteAt n w] := by
  rw [firstBytes, List.range_succ, List.map_append]
  rfl

/-- The top `k` bytes of a word and the next one are its top `k + 1` bytes. -/
theorem top_bytes_concat {k : Nat} (hk : k < 4) (w : Word) :
    ((w >>> (32 - 8 * k)) <<< 8) ||| (byteAt k w).setWidth 32 = w >>> (32 - 8 * (k + 1)) := by
  have hw := w.isLt
  have hbyte : (byteAt k w).toNat = w.toNat / 2 ^ (24 - 8 * k) % 256 := toNat_byteOf k w
  rw [← pushByte_eq_shift]
  apply BitVec.eq_of_toNat_eq
  rw [toNat_pushByte, hbyte, BitVec.toNat_ushiftRight, BitVec.toNat_ushiftRight, Nat.shiftRight_eq_div_pow,
    Nat.shiftRight_eq_div_pow]
  match k, hk with
  | 0, _ | 1, _ | 2, _ | 3, _ => omega

theorem pushBytes_firstBytes {n : Nat} (hn : n ≤ 4) (v w : Word) :
    pushBytes (firstBytes n w) v = (v <<< (8 * n)) ||| (w >>> (32 - 8 * n)) := by
  induction n with
  | zero => simp [firstBytes, pushBytes, BitVec.ushiftRight_eq_zero]
  | succ n ih =>
    rw [firstBytes_succ, pushBytes_concat, ih (by omega), BitVec.shiftLeft_or_distrib, BitVec.or_assoc,
      top_bytes_concat (by omega), ← BitVec.shiftLeft_add, Nat.mul_succ]

/-! ## Bytes held at one that never completes (R227) -/

/-- With `n` bytes left to complete, the first `n` bytes of a word are sent and byte `n` stays in flight. -/
theorem startByte_sentBytes_eq_heldAtByte {n : Nat} {s : State} (hn : n < 4) (hl : s.serialLeft = some n) (w : Word) :
    (s.sentBytes (firstBytes n w)).startByte (byteAt n w) = heldAtByte n w s := by
  have htrace : Event.byte (byteAt n w) :: (((firstBytes n w).map Event.byte).reverse ++ s.trace)
      = ((List.range (n + 1)).map (fun k => Event.byte (byteAt k w))).reverse ++ s.trace := by
    simp [firstBytes, List.range_succ, Function.comp_def]
  simp only [State.startByte, State.emit, State.raiseBusy, State.sentBytes, heldAtByte, pushBytes_firstBytes hn.le, hl,
    htrace, length_firstBytes, Option.map_some, Nat.sub_self]

/-- The bytes a word is put together from are its bytes (R82). -/
theorem firstBytes_append (b0 b1 b2 b3 : Byte) : firstBytes 4 (b0 ++ b1 ++ b2 ++ b3) = [b0, b1, b2, b3] :=
  bytesOfWord_wordOfBytes b0 b1 b2 b3

theorem take_firstBytes {k n : Nat} (hk : k ≤ n) (w : Word) : (firstBytes n w).take k = firstBytes k w := by
  rw [firstBytes, ← List.map_take, List.take_range, Nat.min_eq_left hk]
  rfl

/-- A row burst of which only `n` bytes complete. -/
theorem sendRow_eq_heldAtByte {n : Nat} {s : State} (b0 b1 b2 b3 : Byte) (hb : s.serBusy = false) (hn : n < 4)
    (hl : s.serialLeft = some n) : s.sendRow b0 b1 b2 b3 = heldAtByte n (b0 ++ b1 ++ b2 ++ b3) s := by
  rw [← startByte_sentBytes_eq_heldAtByte hn hl, ← take_firstBytes (n := 4) hn.le, sendRow_hung hb hl hn]
  simp only [← firstBytes_append b0 b1 b2 b3]
  simp [firstBytes]

/-! ## SENDBYTE, ROWBURST and ROWWORD (R81, R82, R115) -/

/-- A byte sent and completed. -/
theorem sendByte_of {v : Byte} {s : State} (hb : s.serBusy = false) (hf : s.frozen = false) :
    s.sendByte v = s.sentBytes [v] := by
  have hf' : (s.startByte v).frozen = false := (frozen_congr rfl).trans hf
  rw [State.sendByte, tryShift_of hf', ← sentBytes_cons v [] hb, sentBytes_nil]

/-- Settles O5: the byte completes or stays in flight as the primitive is frozen or not. -/
theorem sendbyteShiftsOneByte : Obligations.SendbyteShiftsOneByte := by
  intro v s hh hb
  refine sendbyte_eq_next.2 ⟨hh, hb, ?_⟩
  cases hf : s.frozen with
  | true =>
    have hf' : (s.startByte v).frozen = true := (frozen_congr rfl).trans hf
    rw [State.sendByte, tryShift_frozen hf']
    rfl
  | false =>
    have hidle : (s.sentBytes [v]).serBusy = false := hb
    rw [sendByte_of hb hf, State.holdAs, hidle, ← pushByte_eq_shift]
    rfl

theorem zero_append_eq_setWidth (c : BitVec 25) : 0#7 ++ c = c.setWidth 32 := by
  apply BitVec.eq_of_toNat_eq
  have hc := c.isLt
  rw [BitVec.toNat_append, BitVec.toNat_setWidth, Nat.mod_eq_of_lt (by omega)]
  simp

/-- ROWWORD sends its four bytes as a burst. -/
theorem exec_rowword (c : BitVec 25) (s : State) :
    exec (.rowword c) s = exec (.rowburst (byteAt 0 (c.setWidth 32)) (byteAt 1 (c.setWidth 32))
      (byteAt 2 (c.setWidth 32)) (byteAt 3 (c.setWidth 32))) s := by
  rw [← zero_append_eq_setWidth]
  rfl

/-- Settles O7: TRANSMIT, ROWBURST and ROWWORD are one `transmitStep`, which ends or is held as its bytes are. -/
theorem rowburstAndRowwordAreSent : Obligations.RowburstAndRowwordAreSent := by
  intro s hh hb
  refine ⟨fun a b c d => ⟨rfl, transmitStep_of_completes a b c d hh hb, fun n hn hl => ?_⟩, fun c =>
    ⟨exec_rowword c s, fun hc => ⟨_, (exec_rowword c s).trans (transmitStep_of_completes _ _ _ _ hh hb hc), ?_⟩⟩⟩
  · refine transmitStep_eq_next.2 ⟨hh, hb, ?_⟩
    rw [sendRow_eq_heldAtByte a b c d hb hn hl]
    rfl
  · exact ⟨bytes_of_word (c.setWidth 32), bytes_of_word (c.setWidth 32), hb, rfl⟩

/-! ## SERSHIFT and the power-down (R215, R226, R227) -/

/-- The completion of the byte in flight, with the chain written by shifting. -/
theorem shiftByte_eq (s : State) :
    s.shiftByte = { s with shift := (s.shift <<< 8) ||| s.sdr.setWidth 32, serBusy := false,
                           serialLeft := leftAfter 1 s } := by
  rw [← pushByte_eq_shift]
  rfl

/-- The power-down with no byte in flight, held at its byte `k` of sixteen. -/
theorem powerDown_eq_held {k : Nat} {s : State} (hb : s.serBusy = false) (hk : k < 16)
    (hl : s.serialLeft = some k) :
    s.powerDown = { s with rowsel := 0x00#8, sdr := 0x00#8, serBusy := true, shift := s.shift <<< (8 * k),
                           serialLeft := some 0, caller := .handler,
                           trace := List.replicate (k + 1) (.byte 0x00#8) ++ .sel 0x00#8 :: s.trace } := by
  rw [powerDown_hung hb hl hk]
  simp [State.holdAs, State.startByte, State.emit, State.raiseBusy, State.sentBytes, State.writeRowsel, pushBytes_zeros,
    hl, List.replicate_succ]

/-- Settles O37: the power-down's three ways to wait, and the byte in flight completed first where it can be. -/
theorem sershiftCompletesByte : Obligations.SershiftCompletesByte := by
  refine ⟨fun s hh hb hf => ?_, fun s hh hb => ?_, fun k s hh hb hk hl => ?_⟩
  · exact sershift_eq_next.2 ⟨hh, hb, hf, (shiftByte_eq s).symm⟩
  · rw [exec_pwrdown_of hh]
    cases hf : s.frozen with
    | true => rw [powerDown_frozen hb hf]; rfl
    | false =>
      have hshift : exec .sershift s = .next s.shiftByte := sershift_eq_next.2 ⟨hh, hb, hf, rfl⟩
      rw [powerDown_busy hb hf, hshift, andThen_next, exec_pwrdown_of (s := s.shiftByte) hh]
      rfl
  · rw [exec_pwrdown_of hh, powerDown_eq_held hb hk hl]

/-- Settles O39: all the bytes of the power-down complete. -/
theorem pwrdownBlanksAndHalts : Obligations.PwrdownBlanksAndHalts := by
  intro s hh hc
  rw [exec_pwrdown_of hh, powerDown_eq_afterPowerDown hc]

end Sys2Proof.Machine
end

section
/-! PROOFS. The row-select and register codes as instructions (R83 to R92), the counts of a scan's events (R24, R143),
and the refusals of an instruction whose precondition is false (R66, R127, notes/assumptions/15). -/

open Sys2Proof.Claims

namespace Sys2Proof.Machine

/-! ## The row-select codes (R83, R84, R127) -/

/-- The instruction of row r's code writes that code. -/
theorem exec_rowselOf {r : Nat} (hr : r ≤ 24) (s : State) : exec (rowselOf r) s = codeStep (rowCode r) s := by
  interval_cases r <;> rfl

theorem selectCode_refused {v : Byte} {s : State} (h : s.rowsel ≠ 0x00#8) :
    selectCode v s = .refused .selectWithoutBlank :=
  require_not (beq_false_of_ne h)

/-- Settles O10: SELROW and a row code alike end in `selectCode`. -/
theorem selectWithoutBlankRefused : Obligations.SelectWithoutBlankRefused := by
  intro s hh hs
  refine ⟨fun hu hr => ?_, fun r hr => ?_⟩
  · refine (running_of hh).trans ((atUop_of hu).trans ((require_of (decide_eq_true hr)).trans ?_))
    rw [selectCode_refused hs]
    rfl
  · rw [exec_rowselOf hr, codeStep, running_of hh, selectCode_refused hs]

/-- Settles O12: ROWSEL.NONE writes without a condition, a row code if the port is 0. -/
theorem rowselCodesWriteThePort : Obligations.RowselCodesWriteThePort := by
  intro s hh
  refine ⟨running_of hh, fun r hr hs => ?_⟩
  rw [exec_rowselOf hr, ← rowCode_eq_ofNat_codeOf]
  exact codeStep_eq_next.2 ⟨hh, hs, rfl⟩

/-! ## The register codes (R91, R92) -/

/-- Settles O34: each code is a load guarded by HALTED = 0 alone. -/
theorem registerCodesLoadTheirRegister : Obligations.RegisterCodesLoadTheirRegister := by
  intro s hh
  have hload (f : State → State) : running (always f) s = .next (f s) := running_of hh
  exact ⟨⟨hload _, hload _⟩, ⟨hload _, hload _⟩, ⟨hload _, hload _⟩, ⟨hload _, hload _⟩, ⟨hload _, hload _⟩,
    by decide, by decide, by decide, by decide⟩

/-! ## The counts of a scan (R24, R143) -/

/-- Settles O18: field 0 shows the Dim bit, fields 1 to 3 the Bright bit. -/
theorem dutyCountIsDimPlusThreeBright : Obligations.DutyCountIsDimPlusThreeBright := by
  intro s r c
  have hfields : List.range 4 = [0, 1, 2, 3] := rfl
  have hdim : s.rowWord (BitVec.ofNat 2 0) r = bufRead s.dim r := rfl
  have hbright1 : s.rowWord (BitVec.ofNat 2 1) r = bufRead s.bright r := rfl
  have hbright2 : s.rowWord (BitVec.ofNat 2 2) r = bufRead s.bright r := rfl
  have hbright3 : s.rowWord (BitVec.ofNat 2 3) r = bufRead s.bright r := rfl
  simp only [hfields, List.filter, hdim, hbright1, hbright2, hbright3]
  cases (bufRead s.dim r).getLsbD c <;> cases (bufRead s.bright r).getLsbD c <;> rfl

/-- If every row step has `c` events of a kind, the first `n` rows of a field have `c * n`. -/
theorem length_filter_fieldEvents {p : Event → Bool} {c : Nat}
    (h : ∀ w r, r ≤ 24 → ((stepEvents w r).filter p).length = c) (s : State) (f : BitVec 2) {n : Nat} (hn : n ≤ 25) :
    ((fieldEvents s f n).filter p).length = c * n := by
  induction n with
  | zero => rfl
  | succ n ih =>
    rw [fieldEvents, List.filter_append, List.length_append, h _ n (by omega), ih (by omega), Nat.mul_succ, Nat.add_comm]

/-- A scan is four fields. -/
theorem length_filter_scanEvents {p : Event → Bool} {s : State} {m : Nat}
    (h : ∀ f, ((fieldEvents s f 25).filter p).length = m) : ((scanEvents s).filter p).length = 4 * m := by
  simp only [scanEvents, List.filter_append, List.length_append, h]
  omega

theorem length_filter_scanEvents_of_step {p : Event → Bool} {c : Nat}
    (h : ∀ w r, r ≤ 24 → ((stepEvents w r).filter p).length = c) (s : State) :
    ((scanEvents s).filter p).length = 100 * c := by
  rw [length_filter_scanEvents fun f => length_filter_fieldEvents h s f (Nat.le_refl 25)]
  omega

/-- Of the row steps only row r's selects row r. -/
theorem length_filter_sel_stepEvents (w : Word) {q r : Nat} (hq : q ≤ 24) (hr : r ≤ 24) :
    ((stepEvents w q).filter (fun e => e == .sel (rowCode r))).length = if q = r then 1 else 0 := by
  have hzero : (Event.sel 0x00#8 == .sel (rowCode r)) = false := by simpa using (rowCode_ne_zero hr).symm
  by_cases hqr : q = r
  · subst hqr
    simp [stepEvents, hzero]
  · have hcode : rowCode q ≠ rowCode r := fun h => hqr (rowCode_injOn hq hr h)
    simp [stepEvents, hzero, hcode, hqr]

theorem length_filter_sel_fieldEvents (s : State) (f : BitVec 2) {n r : Nat} (hn : n ≤ 25) (hr : r ≤ 24) :
    ((fieldEvents s f n).filter (fun e => e == .sel (rowCode r))).length = if r < n then 1 else 0 := by
  induction n with
  | zero => rfl
  | succ n ih =>
    rw [fieldEvents, List.filter_append, List.length_append, length_filter_sel_stepEvents _ (by omega) hr,
      ih (by omega)]
    split <;> split <;> split <;> omega

/-- Settles O20: the counts of one row step's nine events, a hundred times; each row is one step of each field. -/
theorem scanEventCounts : Obligations.ScanEventCounts := by
  intro s
  refine ⟨?_, ?_, ?_, ?_, ?_, ?_, fun r hr => ?_⟩
  · have hall := length_filter_scanEvents_of_step (p := fun _ => true) (c := 9) (fun w r _ => rfl) s
    rwa [List.filter_true] at hall
  · exact length_filter_scanEvents_of_step (c := 4) (fun w r _ => rfl) s
  · exact length_filter_scanEvents_of_step (c := 1) (fun w r _ => rfl) s
  · exact length_filter_scanEvents_of_step (c := 1) (fun w r _ => rfl) s
  · exact length_filter_scanEvents_of_step (c := 1) (fun w r _ => rfl) s
  · exact length_filter_scanEvents_of_step (c := 1)
      (fun w r hr => by simp [stepEvents, rowCode_ne_zero hr]) s
  · exact length_filter_scanEvents fun f =>
      (length_filter_sel_fieldEvents s f (Nat.le_refl 25) hr).trans (if_pos (by omega))

/-! ## Refused preconditions (R66, notes/assumptions/15 and 31) -/

theorem atUop_not {u : BitVec 4} {k : State → Result} {s : State} (h : s.uop ≠ u) :
    atUop u k s = .refused .outOfSequence :=
  require_not (beq_false_of_ne h)

theorem whenIdle_not {k : State → Result} {s : State} (h : s.serBusy = true) :
    whenIdle k s = .refused .serialBusy :=
  require_not (by rw [h]; rfl)

theorem memRead_not {p : Plane} {r : Nat} {k : Word → State → Result} {s : State} (h : 24 < r) :
    memRead p r k s = .refused .indexOutOfRange :=
  if_neg (Nat.not_le.2 h)

/-- Settles O44: TXk reads the row after its other guards, RSTEP looks at its row first. -/
theorem rowOutOfRangeRefused : Obligations.RowOutOfRangeRefused := by
  refine ⟨fun k s hk hh hu hb hr => ?_, fun f r s hh hr => ?_⟩
  · rw [exec_txOf hk, txStep, running_of hh, atUop_of ((uop_eq_ofNat_iff (by omega)).2 hu), whenIdle_of hb,
      memRead_not hr]
  · exact (running_of hh).trans (require_not (decide_eq_false (Nat.not_le.2 hr)))

/-- Settles O45: each refusal is the first guard that is false. -/
theorem falsePreconditionsRefused : Obligations.FalsePreconditionsRefused := by
  intro s hh
  refine ⟨fun k hk hu => ?_, fun k hk hu hb => ?_, fun hu => ?_, fun hu hl => ?_, fun v hb => ?_, fun hs => ?_,
    fun hc => ?_⟩
  · rw [exec_txOf hk, txStep, running_of hh, atUop_not (mt (uop_eq_ofNat_iff (by omega)).1 hu)]
  · rw [exec_txOf hk, txStep, running_of hh, atUop_of ((uop_eq_ofNat_iff (by omega)).2 hu), whenIdle_not hb]
  · exact (running_of hh).trans (atUop_not hu)
  · exact (running_of hh).trans ((atUop_of hu).trans (require_not hl))
  · exact (running_of hh).trans (whenIdle_not hb)
  · refine (running_of hh).trans (require_not ?_)
    obtain hb | hf := hs
    · rw [hb]; rfl
    · rw [hf, Bool.not_true, Bool.and_false]
  · refine (running_of hh).trans (require_not ?_)
    rw [hc]
    rfl

/-! ## The state after reset and the table's words -/

/-- Settles O41: the empty planes read 0 in every row, and the registers are as written in `State.reset`. -/
theorem resetStateHoldsStatedValues : Obligations.ResetStateHoldsStatedValues :=
  ⟨fun r => ⟨bufRead_nil r, bufRead_nil r⟩, rfl, rfl, rfl, rfl, rfl, rfl, rfl, rfl, rfl, rfl, rfl, rfl, rfl, rfl, rfl,
    by decide⟩

/-- Settles O60: each of the nine words is decoded. -/
theorem tableWordsDecode : Obligations.TableWordsDecode := by
  unfold Obligations.TableWordsDecode
  decide

end Sys2Proof.Machine
end

section
/-! PROOFS. The step (R95, R202, R203, R211): which states it refuses, that a halted block has none, and which agent
or written operation it performs. -/

open Sys2Proof.Claims

namespace Sys2Proof.Machine

/-! ## Refused states (R86, R95, R211) -/

/-- A state with an unreachable value is refused whatever is written, RESET apart. -/
theorem step_defect {s : State} {r : Refusal} (hn : noResetFirst s) (hd : stateDefect s = some r) :
    step s = .refused r := by
  have hsound (p : Pick) : whenSound s p = .refuse r := whenSound_defect hd
  unfold step pick
  split
  next => rw [hsound]; rfl
  next c rest hw =>
    split
    next i hi =>
      have hi' : i ≠ .reset := fun h => hn c rest hw (h ▸ hi)
      rw [if_neg hi', hsound]
      rfl
    next => rw [hsound]; rfl

/-- R86: the bytes read as reserved, by their nibbles. -/
theorem rowOf_eq_reserved_iff (v : Byte) :
    rowOf v = .reserved ↔ (v.toNat % 16 = 0 ∧ 11 ≤ v.toNat / 16) ∨ (v.toNat % 16 ≠ 0 ∧ v.toNat / 16 ≠ 0) := by
  simp only [rowOf, toNat_extractLsb'_hi, toNat_extractLsb'_lo]
  by_cases hHi : v.toNat / 16 = 0
  · have hsome : (if v.toNat % 16 = 0 then RowSel.none else .row (v.toNat % 16 - 1)) ≠ .reserved := by split <;> nofun
    simp [hHi, hsome]
  · by_cases hLo : v.toNat % 16 = 0
    · by_cases hTen : v.toNat / 16 ≤ 10
      · simp [hHi, hLo, hTen]; omega
      · simp [hHi, hLo, hTen]; omega
    · simp [hHi, hLo]

/-- Settles O13: the codes are refused as instructions by definition, and a state that holds one by the step. -/
theorem reservedRowCodesRefused : Obligations.ReservedRowCodesRefused :=
  ⟨fun _ _ => rfl, fun _ _ _ => rfl, rowOf_eq_reserved_iff, fun _ hn hr => step_defect hn (if_pos hr)⟩

/-- The registers in their reachable ranges, clause by clause (R95, U4). -/
theorem registersOk_iff {s : State} :
    registersOk s = true ↔ ballOk s = true ∧ s.ballPace.toNat ≤ 9 ∧ counterReady s ∧ s.uop.toNat ≤ 13
      ∧ s.row.toNat ≤ 24 ∧ (s.uop = 13#4 → s.field = 0#2 ∧ s.row = 0#5) ∧ (s.latch = true → s.uop = 10#4)
      ∧ (s.serBusy = true → isWaitUop s.uop = true ∨ s.caller ≠ .sequencer)
      ∧ (s.halted = true ∨ s.caller = .handler ∨ s.pressCnt < s.cfg.pressEdgeThreshold) := by
  simp only [registersOk, Bool.and_eq_true, Bool.or_eq_true, decide_eq_true_eq, beq_iff_eq, bne_iff_ne, ne_eq,
    Bool.not_eq_true', counterReady, and_assoc, or_assoc, ← Bool.not_eq_true, imp_iff_not_or]

theorem velocityCode_mem : ∀ v : BitVec 3, Config.velocityCode v = true → v ∈ [1#3, 2#3, 6#3, 7#3] := by decide

theorem isWaitUop_mem : ∀ u : BitVec 4, isWaitUop u = true → u ∈ [2#4, 4#4, 6#4, 8#4] := by decide

/-- No value of the list of R95 and U4 stands in registers that are all in range. -/
theorem not_unreachable_of_registersOk {s : State} (h : registersOk s = true) : ¬ unreachable s := by
  obtain ⟨hball, hpace, hctr, huop, hrow, hatick, hlatch, hbusy, hpress⟩ := registersOk_iff.1 h
  obtain ⟨hx, hy, hdx, hdy⟩ := ballOk_iff.1 hball
  rintro (hv | hv | hv | hv | hv | ⟨hg, hv⟩ | ⟨hg, hv⟩ | hv | hv | ⟨hu, hv⟩ | ⟨hl, hu⟩ | ⟨hb, hu, hc⟩ | ⟨hh, hc, hv⟩)
  · omega
  · omega
  · exact hv (velocityCode_mem _ hdx)
  · exact hv (velocityCode_mem _ hdy)
  · omega
  · rw [counterReady, hg] at hctr; exact absurd hctr (Nat.not_lt.2 hv)
  · rw [counterReady, hg] at hctr; exact absurd hctr (Nat.not_lt.2 hv)
  · omega
  · omega
  · obtain ⟨hf, hr⟩ := hatick hu
    exact hv.elim (absurd hf) (absurd hr)
  · exact hu (hlatch hl)
  · exact (hbusy hb).elim (fun hw => hu (isWaitUop_mem _ hw)) (absurd hc)
  · obtain h' | h' | h' := hpress
    · exact absurd (hh.symm.trans h') nofun
    · exact hc h'
    · omega

/-- Settles O43: one register out of range is enough. -/
theorem illFormedStateRefused : Obligations.IllFormedStateRefused := by
  intro s hn hr hu
  have hregs : ¬ registersOk s = true := fun h => not_unreachable_of_registersOk h hu
  exact step_defect hn ((if_neg hr).trans (if_neg hregs))

/-! ## The halted block (R34) -/

theorem atickStep_halted {s : State} (hh : s.halted = true) : atickStep s = .fault .halted := running_halted hh

/-- Settles O42: every meaning begins with the guard HALTED = 0, FRAME and RUN through their ATICK. -/
theorem haltedBlocksEveryInstruction : Obligations.HaltedBlocksEveryInstruction := by
  intro s hh
  refine ⟨fun i hi hr => ?_, fun hw hd => ?_⟩
  · cases i with
    | reset => exact absurd rfl hi
    | rowselReservedHi h | rowselReservedBoth h l => cases hr
    | frame | run => exact congrArg (andThen · _) (atickStep_halted hh)
    | _ => exact running_halted hh
  · simp only [step, pick, hw, whenSound_of hd, whenRunning, hh, if_true, outcome_stop]

/-! ## The free-running step (R202, R203) -/

theorem pickFree_of_not_due {s : State} (he : ¬ edgeDue s) : pickFree s = pickAgent (s.setEdges (nearer s.edges)) := by
  unfold pickFree
  split
  next rest hdue => exact absurd ⟨rest, hdue⟩ he
  next => rfl

theorem pickFree_stuck {s : State} (he : ¬ edgeDue s) (hs : s.stuck = true) :
    pickFree s = .held (s.setEdges (nearer s.edges)) :=
  (pickFree_of_not_due he).trans (if_pos hs)

theorem pickAgent_sershift {s : State} (hb : s.serBusy = true) (hf : s.frozen = false) :
    pickAgent s = .perform .sershift s := by
  simp [pickAgent, State.stuck, hb, hf]

theorem pickAgent_uop {s : State} {i : Instr} (hb : s.serBusy = false) (hi : uopInstr s.uop = some i) :
    pickAgent s = .perform i s := by
  simp [pickAgent, State.stuck, hb, hi]

/-- The micro-operations stand in the order of their UOP codes (R94). -/
theorem uopInstr_of_uops {u : BitVec 4} {i : Instr} (h : uops[u.toNat]? = some i) : uopInstr u = some i := by
  have key : ∀ u : BitVec 4, ∀ i ∈ (uops[u.toNat]?).toList, uopInstr u = some i := by decide
  exact key u i (by simp [h])

section Free

variable {s : State} (hw : s.written = []) (hd : stateDefect s = none) (hh : s.halted = false)
  (hc : s.caller ≠ .handler) (he : ¬ edgeDue s)
include hw hd hh hc he

theorem step_stuck (hs : s.stuck = true) : step s = .next (s.setEdges (nearer s.edges)) := by
  rw [step_free hw hd hh hc, pickFree_stuck he hs, outcome_held]

theorem step_sershift (hb : s.serBusy = true) (hf : s.frozen = false) :
    step s = exec .sershift (s.setEdges (nearer s.edges)) := by
  have hpick := pickAgent_sershift (s := s.setEdges (nearer s.edges)) hb hf
  rw [step_free hw hd hh hc, pickFree_of_not_due he, hpick, outcome_perform]

theorem step_uop {i : Instr} (hb : s.serBusy = false) (hi : uopInstr s.uop = some i) :
    step s = exec i (s.setEdges (nearer s.edges)) := by
  have hpick := pickAgent_uop (s := s.setEdges (nearer s.edges)) hb hi
  rw [step_free hw hd hh hc, pickFree_of_not_due he, hpick, outcome_perform]

end Free

/-- Settles O57: the cases of `pickFree`, which is what such a step does. -/
theorem stepChoosesAgent : Obligations.StepChoosesAgent := by
  intro s hw hh hd hc
  exact ⟨fun rest he => step_edgeDue hw hd hh hc he,
    fun he hb hf => step_stuck hw hd hh hc he (by rw [State.stuck, hb, hf]; rfl),
    fun he hb hf => step_sershift hw hd hh hc he hb hf,
    fun he hb i hi => step_uop hw hd hh hc he hb (uopInstr_of_uops hi), rfl, fun _ _ => rfl⟩

/-! ## The step with something written (R98, notes/assumptions/7, 16, 26 and 28) -/

theorem step_written_reset {c : Cmd} {rest : List Cmd} {s : State} (hw : s.written = c :: rest)
    (hi : decodeCmd c = .ok .reset) : step s = exec .reset { s with written := rest } := by
  simp only [step, pick, hw, hi, if_true, outcome_perform]

/-- A running state with no unreachable value and no power-down waiting takes up what is written. -/
theorem step_written_ok {c : Cmd} {rest : List Cmd} {i : Instr} {s : State} (hw : s.written = c :: rest)
    (hh : s.halted = false) (hd : stateDefect s = none) (hc : s.caller ≠ .handler) (hi : decodeCmd c = .ok i)
    (hne : i ≠ .reset) : step s = outcome (pickWritten i rest s) := by
  simp only [step, pick, hw, hi, hne, if_false, whenSound_of hd, whenRunning_of hh hc]

theorem step_written_error {c : Cmd} {rest : List Cmd} {e : DecodeError} {s : State} (hw : s.written = c :: rest)
    (hh : s.halted = false) (hd : stateDefect s = none) (hc : s.caller ≠ .handler) (he : decodeCmd c = .error e) :
    step s = .refused (refusalOf e) := by
  simp only [step, pick, hw, he, whenSound_of hd, whenRunning_of hh hc, outcome_refuse]

theorem pickWritten_env {i : Instr} (rest : List Cmd) (s : State) (hi : isEnv i = true) :
    pickWritten i rest s = .perform i { s with written := rest } :=
  if_pos hi

/-- An operation of the thread of control, which no byte holds, begins at its own entry. -/
theorem pickWritten_entry {i : Instr} (rest : List Cmd) {s : State} (hi : isEnv i = false) (hs : s.stuck = false)
    (hw : holds i s = false) : pickWritten i rest s = whenSound (State.entry i { s with written := rest })
      (.perform i (State.entry i { s with written := rest })) := by
  simp [pickWritten, hi, hs, hw]

theorem pickWritten_holds {i : Instr} (rest : List Cmd) {s : State} (hi : isEnv i = false) (hs : s.stuck = false)
    (hw : holds i s = true) : pickWritten i rest s = whenSound (s.entry i) (.perform .sershift (s.entry i)) := by
  simp [pickWritten, hi, hs, hw]

theorem pickWritten_stuck {i : Instr} (rest : List Cmd) {s : State} (hi : isEnv i = false) (hs : s.stuck = true) :
    pickWritten i rest s = pickFree s := by
  simp [pickWritten, hi, hs]

theorem ne_reset_of_not_isEnv {i : Instr} (hi : isEnv i = false) : i ≠ .reset := by
  rintro rfl
  cases hi

/-- Settles O56: the cases of `pickWritten`, RESET taken out before them. -/
theorem stepRunsWrittenInstruction : Obligations.StepRunsWrittenInstruction := by
  intro c rest s hw
  refine ⟨step_written_reset hw, fun hh hd hc => ⟨fun e he => step_written_error hw hh hd hc he, fun i hi =>
    ⟨fun henv => ?_, fun henv hs hhold => ⟨fun hentry => ?_, fun r hentry => ?_⟩, fun henv hs hhold hentry => ?_,
      fun henv hs he => ?_⟩⟩⟩
  · by_cases hreset : i = .reset
    · subst hreset
      exact step_written_reset hw hi
    · rw [step_written_ok hw hh hd hc hi hreset, pickWritten_env rest s henv, outcome_perform]
  · rw [step_written_ok hw hh hd hc hi (ne_reset_of_not_isEnv henv), pickWritten_entry rest henv hs hhold,
      whenSound_of hentry, outcome_perform]
  · rw [step_written_ok hw hh hd hc hi (ne_reset_of_not_isEnv henv), pickWritten_entry rest henv hs hhold,
      whenSound_defect hentry, outcome_refuse]
  · rw [step_written_ok hw hh hd hc hi (ne_reset_of_not_isEnv henv), pickWritten_holds rest henv hs hhold,
      whenSound_of hentry, outcome_perform]
  · rw [step_written_ok hw hh hd hc hi (ne_reset_of_not_isEnv henv), pickWritten_stuck rest henv hs,
      pickFree_stuck he hs]
    rfl

end Sys2Proof.Machine
end

section
/-! PROOFS. What the micro-operations and SERSHIFT leave alone (R97, R128, R216): the halt, the press counter and who
waits, and a trace that goes on by one event at most, a selection only after a blank. -/

open Sys2Proof.Claims

namespace Sys2Proof.Machine

/-! ## What an edge reads -/

/-- What an edge reads is as it was. -/
def EdgeKept (s t : State) : Prop :=
  t.halted = s.halted ∧ t.caller = s.caller ∧ t.pressCnt = s.pressCnt ∧ t.cfg = s.cfg

/-! ## The trace (R128) -/

theorem traceInv_iff {s : State} :
    traceInv s = true ↔ blankBeforeSelect s.trace = true ∧ lastSel s.trace = s.rowsel := by
  simp [traceInv]

theorem traceInv_congr {s t : State} (h : traceInv s = true) (ht : t.trace = s.trace) (hr : t.rowsel = s.rowsel) :
    traceInv t = true := by
  rwa [traceInv, ht, hr]

/-- An event that is no selection, with the port as it was. -/
theorem traceInv_cons {s t : State} {e : Event} (h : traceInv s = true) (he : ∀ v, e ≠ .sel v)
    (ht : t.trace = e :: s.trace) (hr : t.rowsel = s.rowsel) : traceInv t = true := by
  rw [traceInv_iff] at h ⊢
  rw [ht, hr]
  cases e with
  | sel v => exact absurd rfl (he v)
  | byte v | latch b | delay | halt => exact h

/-- A selection is the port's value, and is 0 or comes after 0. -/
theorem traceInv_sel {s t : State} {v : Byte} (h : traceInv s = true) (ht : t.trace = .sel v :: s.trace)
    (hr : t.rowsel = v) (hv : v = 0x00#8 ∨ s.rowsel = 0x00#8) : traceInv t = true := by
  rw [traceInv_iff] at h ⊢
  rw [ht, hr, blankBeforeSelect, lastSel, h.1, h.2]
  exact ⟨by simpa using hv, rfl⟩

/-- Bytes sent are no selections. -/
theorem traceInv_bytes {s t : State} {n : Nat} {v : Byte} (h : traceInv s = true)
    (ht : t.trace = List.replicate n (.byte v) ++ s.trace) (hr : t.rowsel = s.rowsel) : traceInv t = true := by
  have hquiet (n : Nat) : blankBeforeSelect (List.replicate n (.byte v) ++ s.trace) = blankBeforeSelect s.trace
      ∧ lastSel (List.replicate n (.byte v) ++ s.trace) = lastSel s.trace := by
    induction n with
    | zero => exact ⟨rfl, rfl⟩
    | succ n ih => exact ih
  rwa [traceInv, ht, hr, (hquiet n).1, (hquiet n).2]

/-! ## The micro-operations and SERSHIFT -/

/-- The agent of a step with no edge due performs a micro-operation or SERSHIFT (R94, R203). -/
theorem AgentOf.mem_uops {i : Instr} {s : State} (hi : AgentOf i s) : i ∈ uops ++ [.sershift] := by
  obtain ⟨-, -, rfl⟩ | ⟨-, hi⟩ := hi
  · decide
  · have key : ∀ u : BitVec 4, ∀ i ∈ (uopInstr u).toList, i ∈ uops ++ [.sershift] := by decide
    exact key s.uop i (by simp [hi])

theorem not_writesAnimation_of_ne_atick {i : Instr} (hi : i ∈ uops ++ [.sershift]) (hne : i ≠ .atick) :
    writesAnimation i = false := by
  have key : ∀ i ∈ uops ++ [Instr.sershift], i ≠ .atick → writesAnimation i = false := by decide
  exact key i hi hne

/-- The scan's bookkeeping kept: what an edge reads, blank before select over the trace, and a serial primitive that
completes every byte. -/
def BookKept (s t : State) : Prop :=
  EdgeKept s t ∧ (traceInv s = true → traceInv t = true) ∧ (s.serialLeft = none → t.serialLeft = none)

theorem bookKept_txStep {k : Nat} {s t : State} (h : txStep k s = .next t) : BookKept s t := by
  obtain ⟨-, -, -, -, rfl⟩ := txStep_eq_next.1 h
  exact ⟨⟨rfl, rfl, rfl, rfl⟩, fun htr => traceInv_cons (e := .byte _) htr nofun rfl rfl, id⟩

theorem bookKept_waitStep {k : Nat} {s t : State} (h : waitStep k s = .next t) : BookKept s t := by
  obtain ⟨-, -, rfl⟩ := waitStep_eq_next.1 h
  split <;> exact ⟨⟨rfl, rfl, rfl, rfl⟩, id, id⟩

theorem exec_uop_bookKept {i : Instr} {s t : State} (hi : i ∈ uops ++ [.sershift]) (h : exec i s = .next t) :
    BookKept s t := by
  simp only [uops, List.cons_append, List.nil_append, List.mem_cons, List.not_mem_nil, or_false] at hi
  obtain rfl | rfl | rfl | rfl | rfl | rfl | rfl | rfl | rfl | rfl | rfl | rfl | rfl | rfl | rfl := hi
  · obtain ⟨-, -, rfl⟩ := blankStep_eq_next.1 h
    exact ⟨⟨rfl, rfl, rfl, rfl⟩, fun htr => traceInv_sel htr rfl rfl (.inl rfl), id⟩
  · exact bookKept_txStep h
  · exact bookKept_waitStep h
  · exact bookKept_txStep h
  · exact bookKept_waitStep h
  · exact bookKept_txStep h
  · exact bookKept_waitStep h
  · exact bookKept_txStep h
  · exact bookKept_waitStep h
  · obtain ⟨-, -, -, rfl⟩ := latchSetStep_eq_next.1 h
    exact ⟨⟨rfl, rfl, rfl, rfl⟩, fun htr => traceInv_cons (e := .latch true) htr nofun rfl rfl, id⟩
  · obtain ⟨-, -, -, rfl⟩ := latchClrStep_eq_next.1 h
    exact ⟨⟨rfl, rfl, rfl, rfl⟩, fun htr => traceInv_cons (e := .latch false) htr nofun rfl rfl, id⟩
  · obtain ⟨-, -, -, hs, rfl⟩ := selRowStep_eq_next.1 h
    exact ⟨⟨rfl, rfl, rfl, rfl⟩, fun htr => traceInv_sel htr rfl rfl (.inr hs), id⟩
  · obtain ⟨-, -, -, rfl⟩ := settleStep_eq_next.1 h
    exact ⟨⟨rfl, rfl, rfl, rfl⟩, fun htr => traceInv_cons (e := .delay) htr nofun rfl rfl, id⟩
  · obtain ⟨hrowsel, -, -, -, hhalted, -, -, hpress, hcfg, -, hleft, hcaller, -, htrace⟩ :=
      (engineOnly_atickStep h).outputsKept
    exact ⟨⟨hhalted, hcaller, hpress, hcfg⟩, fun htr => traceInv_congr htr htrace hrowsel, hleft.trans⟩
  · obtain ⟨-, -, -, rfl⟩ := sershift_eq_next.1 h
    exact ⟨⟨rfl, rfl, rfl, rfl⟩, id, fun hl => by rw [State.shiftByte_serialLeft, hl]; rfl⟩

end Sys2Proof.Machine
end

section
/-! PROOFS. The invariants of R252 taken apart: the planes and the animation record, the sequencer's position, and the
three modes of a reachable block: the scan runs, the power-down handler waits for a byte, or the block is halted. -/

open Sys2Proof.Claims

namespace Sys2Proof.Machine

/-! ## The planes stay in form under the generators (R23, R61) -/

/-- Bits 31:25 of a word are 0. -/
def Low25 (w : Word) : Prop := w.extractLsb' 25 7 = 0#7

/-- Both planes are in canonical form with bits 31:25 zero. -/
def PlanesOk (s : State) : Prop := memWf s = true ∧ memLow25 s = true

theorem planesOk_iff {s : State} : PlanesOk s ↔ ∀ p, bufWf (s.plane p) = true ∧ bufLow25 (s.plane p) = true := by
  simp only [PlanesOk, memWf, memLow25, Bool.and_eq_true]
  constructor
  · rintro ⟨⟨hwd, hwb⟩, hld, hlb⟩ p
    cases p
    · exact ⟨hwd, hld⟩
    · exact ⟨hwb, hlb⟩
  · intro h
    exact ⟨⟨(h .dim).1, (h .bright).1⟩, (h .dim).2, (h .bright).2⟩

theorem PlanesOk.congr {s t : State} (hd : t.dim = s.dim) (hb : t.bright = s.bright) (h : PlanesOk s) : PlanesOk t := by
  rwa [PlanesOk, memWf, memLow25, hd, hb]

theorem State.plane_setPlane (p q : Plane) (b : Buffer) (s : State) :
    (s.setPlane p b).plane q = if q = p then b else s.plane q := by
  cases p <;> cases q <;> rfl

/-- A word of a row in 0..24 with bits 31:25 zero can be written. -/
theorem PlanesOk.setPlane_write {p : Plane} {r : Nat} {v : Word} {s : State} (h : PlanesOk s) (hr : r ≤ 24)
    (hv : Low25 v) : PlanesOk (s.setPlane p (bufWrite (s.plane p) r v)) := by
  rw [planesOk_iff] at h ⊢
  intro q
  rw [State.plane_setPlane]
  split
  · exact ⟨bufWf_write _ _ _ (h p).1 hr, bufLow25_write _ _ _ (h p).2 hv⟩
  · exact h q

theorem PlanesOk.low25_word {s : State} (h : PlanesOk s) (p : Plane) (r : Nat) : Low25 (s.word p r) :=
  bufLow25_read _ r (planesOk_iff.1 h p).2

theorem Low25.and {w : Word} (h : Low25 w) (m : Word) : Low25 (w &&& m) := by
  rw [Low25, BitVec.extractLsb'_and, h, BitVec.zero_and]

theorem Low25.or {w v : Word} (h : Low25 w) (k : Low25 v) : Low25 (w ||| v) := by
  rw [Low25, BitVec.extractLsb'_or, h, k, BitVec.or_self]

theorem Low25.xor {w v : Word} (h : Low25 w) (k : Low25 v) : Low25 (w ^^^ v) := by
  rw [Low25, BitVec.extractLsb'_xor, h, k, BitVec.xor_self]

/-- A small word shifted by few columns reaches no bit above 24. -/
theorem low25_of_lt {w : Word} (h : w.toNat < 2 ^ 25) : Low25 w := by
  apply BitVec.eq_of_toNat_eq
  rw [BitVec.extractLsb'_toNat, Nat.shiftRight_eq_div_pow, Nat.div_eq_of_lt h]
  rfl

theorem low25_placeGlyph (g : BitVec 4) {x : Nat} (hx : x ≤ 21) : Low25 (placeGlyph g x) := by
  have hg : g.toNat * 2 ^ x < 2 ^ 25 := calc
    g.toNat * 2 ^ x < 2 ^ 4 * 2 ^ x := Nat.mul_lt_mul_of_pos_right g.isLt (Nat.two_pow_pos x)
    _ ≤ 2 ^ 4 * 2 ^ 21 := Nat.mul_le_mul_left _ (Nat.pow_le_pow_right (by decide) hx)
    _ = 2 ^ 25 := by decide
  apply low25_of_lt
  rw [placeGlyph, BitVec.toNat_shiftLeft, BitVec.toNat_setWidth, Nat.shiftLeft_eq]
  exact Nat.lt_of_le_of_lt ((Nat.mod_le _ _).trans (Nat.mul_le_mul_right _ (Nat.mod_le _ _))) hg

theorem low25_bitMask {c : Nat} (hc : c ≤ 24) : Low25 (bitMask c) := by
  apply low25_of_lt
  rw [bitMask, BitVec.toNat_shiftLeft, Nat.shiftLeft_eq]
  have hpow : 2 ^ c ≤ 2 ^ 24 := Nat.pow_le_pow_right (by decide) hc
  refine Nat.lt_of_le_of_lt (Nat.mod_le _ _) ?_
  simp only [BitVec.toNat_ofNat]
  omega

/-- The planes are in form and the position lets a glyph fit. -/
def DrawReady (s : State) : Prop := PlanesOk s ∧ s.ballX.toNat ≤ 21

theorem DrawReady.modWord {p : Plane} {r : Nat} {f : Word → Word} {s t : State} (h : DrawReady s)
    (hf : ∀ w, Low25 w → Low25 (f w)) (ht : modWord p r f s = .next t) : DrawReady t := by
  obtain ⟨hr, rfl⟩ := modWord_eq_next.1 ht
  refine ⟨h.1.setPlane_write hr (hf _ (h.1.low25_word p r)), ?_⟩
  rw [State.setWord_ballX]
  exact h.2

theorem DrawReady.eraseRow {i : Nat} {s t : State} (h : DrawReady s) (ht : eraseRow i s = .next t) : DrawReady t := by
  obtain ⟨u, hu, ht⟩ := andThen_eq_next.1 ht
  exact (h.modWord (fun _ hw => hw.and _) hu).modWord (fun _ hw => hw.and _) ht

theorem DrawReady.drawRow {i : Nat} {s t : State} (h : DrawReady s) (ht : drawRow i s = .next t) : DrawReady t := by
  obtain ⟨u, hu, ht⟩ := andThen_eq_next.1 ht
  have hdim := h.modWord (fun _ hw => hw.or (low25_placeGlyph _ h.2)) hu
  exact hdim.modWord (fun _ hw => hw.or (low25_placeGlyph _ hdim.2)) ht

/-- ERASE and DRAW begin at a position in range and go row by row. -/
theorem planesOk_whenPosOk_runAll {fs : List (State → Result)}
    (hfs : ∀ f ∈ fs, ∀ s t, DrawReady s → f s = .next t → DrawReady t) {s t : State} (h : PlanesOk s)
    (ht : whenPosOk (runAll fs) s = .next t) : PlanesOk t := by
  obtain ⟨hpos, ht⟩ := require_eq_next.1 ht
  have hx : s.ballX.toNat ≤ 21 := of_decide_eq_true ((Bool.and_eq_true ..).mp hpos).1
  exact (runAll_keeps fs hfs (show DrawReady s from ⟨h, hx⟩) ht).1

theorem planesOk_eraseBlock {s t : State} (h : PlanesOk s) (ht : eraseBlock s = .next t) : PlanesOk t := by
  refine planesOk_whenPosOk_runAll (fun f hf => ?_) h ht
  simp only [List.mem_cons, List.not_mem_nil, or_false] at hf
  obtain rfl | rfl | rfl | rfl := hf <;> exact fun _ _ => DrawReady.eraseRow

theorem planesOk_drawGlyph {s t : State} (h : PlanesOk s) (ht : drawGlyph s = .next t) : PlanesOk t := by
  refine planesOk_whenPosOk_runAll (fun f hf => ?_) h ht
  simp only [List.mem_cons, List.not_mem_nil, or_false] at hf
  obtain rfl | rfl | rfl | rfl := hf <;> exact fun _ _ => DrawReady.drawRow

theorem planesOk_paceBall {s t : State} (h : PlanesOk s) (ht : paceBall s = .next t) : PlanesOk t := by
  unfold paceBall at ht
  split at ht
  · obtain ⟨u, hu, ht⟩ := andThen_eq_next.1 ht
    obtain ⟨v, hv, ht⟩ := andThen_eq_next.1 ht
    obtain ⟨-, rfl⟩ := bounceBall_eq_next.1 hu
    obtain ⟨-, rfl⟩ := moveBall_eq_next.1 hv
    obtain rfl := next_eq_next.1 ht
    have hkept := velocityOnly_bounced { s with ballPace := 0#4 }
    rw [State.bounced] at hkept
    rw [hkept]
    exact h.congr rfl rfl
  · exact next_eq_next.1 ht ▸ h.congr rfl rfl

theorem planesOk_ballCall {s t : State} (h : PlanesOk s) (ht : ballCall s = .next t) : PlanesOk t := by
  obtain ⟨-, ht⟩ := require_eq_next.1 ht
  refine runAll_keeps _ (fun f hf => ?_) h ht
  simp only [List.mem_cons, List.not_mem_nil, or_false] at hf
  obtain rfl | rfl | rfl := hf
  · exact fun _ _ => planesOk_eraseBlock
  · exact fun _ _ => planesOk_paceBall
  · exact fun _ _ => planesOk_drawGlyph

theorem planesOk_toggled {s : State} (h : PlanesOk s) (p : Plane) : PlanesOk (s.toggled p) := by
  have hdrawn : PlanesOk s.afterDraw.afterDraw := h.congr (by simp) (by simp)
  have hword : Low25 (bufRead (s.plane p) (s.drawn % 25) ^^^ bitMask (s.afterDraw.drawn % 25)) :=
    (h.low25_word p _).xor (low25_bitMask (by omega))
  have hset := hdrawn.setPlane_write (p := p) (r := s.drawn % 25) (by omega) hword
  rwa [State.plane_afterDraw, State.plane_afterDraw] at hset

theorem planesOk_runGenerator {s t : State} (h : PlanesOk s) (ht : runGenerator s = .next t) : PlanesOk t := by
  unfold runGenerator at ht
  split at ht
  · exact planesOk_ballCall h ht
  · rw [noiseCall_next, next_eq_next] at ht
    exact ht ▸ planesOk_toggled (planesOk_toggled h .dim) .bright

end Sys2Proof.Machine
end

section
/-! PROOFS. Every step keeps the invariants of R252. They are taken apart into what the scan never writes, the
sequencer's position, the trace, and one of three modes: the scan runs, the power-down handler waits for a byte that
never completes, or the block is halted. -/

open Sys2Proof.Claims

namespace Sys2Proof.Machine

/-! ## The invariants by modes -/

/-- The planes and the animation record, with the parameters in range and nothing written. -/
structure RecordInv (s : State) : Prop where
  cfg : s.cfg.ok = true
  written : s.written = []
  planes : PlanesOk s
  ball : ballReady s
  counter : counterReady s

/-- The sequencer's position is a reachable one (R30, R31). -/
structure SeqInv (s : State) : Prop where
  uop : s.uop.toNat ≤ 13
  row : s.row.toNat ≤ 24
  atick : s.uop = 13#4 → s.field = 0#2 ∧ s.row = 0#5

/-- The scan runs: what the port, the latch and SER_BUSY are at each micro-operation (R252 (7) to (10)). -/
structure ScanInv (s : State) : Prop where
  running : s.halted = false
  caller : s.caller ≠ .handler
  press : s.pressCnt < s.cfg.pressEdgeThreshold
  latch : s.latch = (s.uop == 10#4)
  busy : s.serBusy = true → isWaitUop s.uop = true
  code : s.rowsel = 0x00#8 ∨ ∃ r ≤ 24, s.rowsel = rowCode r
  blank : 1 ≤ s.uop.toNat → s.uop.toNat ≤ 11 → s.rowsel = 0x00#8
  settle : s.uop = 12#4 → s.rowsel = rowCode s.row.toNat

/-- The power-down handler waits for a byte that never completes (R227). -/
structure WaitInv (s : State) : Prop where
  running : s.halted = false
  caller : s.caller = .handler
  busy : s.serBusy = true
  frozen : s.frozen = true
  blank : s.rowsel = 0x00#8
  latch : s.latch = (s.uop == 10#4)

/-- The block is halted, dark and quiet (R215). -/
structure HaltInv (s : State) : Prop where
  halted : s.halted = true
  caller : s.caller = .sequencer
  blank : s.rowsel = 0x00#8
  latch : s.latch = false
  idle : s.serBusy = false
  shift : s.shift = 0#32
  colout : s.colout = 0#32

/-- The row codes among the bytes, as `rowselInv` lists them. -/
theorem any_rowCode_iff (v : Byte) :
    (List.range Config.nRows).any (fun r => v == rowCode r) = true ↔ ∃ r ≤ 24, v = rowCode r := by
  simp [Config.nRows, Nat.lt_succ_iff]

theorem rowselInv_iff {s : State} :
    rowselInv s = true ↔ (s.rowsel = 0x00#8 ∨ ∃ r ≤ 24, s.rowsel = rowCode r)
      ∧ (1 ≤ s.uop.toNat → s.uop.toNat ≤ 11 → s.rowsel = 0x00#8)
      ∧ (s.powering = false → s.uop = 12#4 → s.rowsel = rowCode s.row.toNat) := by
  simp only [rowselInv, Bool.and_eq_true, Bool.or_eq_true, beq_iff_eq, any_rowCode_iff, Bool.not_eq_true',
    decide_eq_true_eq, bne_iff_ne, and_assoc, ne_eq, ← Bool.not_eq_true, imp_iff_not_or, not_and_or, or_assoc, not_not]

theorem invariants_of_scan {s : State} (hrec : RecordInv s) (hseq : SeqInv s) (htr : traceInv s = true)
    (hc : s.caller = .sequencer) (h : ScanInv s) : Invariants s := by
  have hlatch : s.latch = true → s.uop = 10#4 := fun hl => by simpa [hl] using h.latch
  refine ⟨hrec.cfg, hrec.written, hrec.planes.1, hrec.planes.2, ?_, rowselInv_iff.2 ⟨h.code, h.blank, fun _ => h.settle⟩,
    ?_, ?_, ?_, htr⟩
  · exact registersOk_iff.2 ⟨hrec.ball.1, hrec.ball.2, hrec.counter, hseq.uop, hseq.row, hseq.atick, hlatch,
      fun hb => .inl (h.busy hb), .inr (.inr h.press)⟩
  · simp [latchInv, h.latch]
  · simp [callerInv, hc]
  · simp [haltedInv, h.running]

theorem invariants_of_wait {s : State} (hrec : RecordInv s) (hseq : SeqInv s) (htr : traceInv s = true)
    (h : WaitInv s) : Invariants s := by
  have hlatch : s.latch = true → s.uop = 10#4 := fun hl => by simpa [hl] using h.latch
  have hpowering : s.powering = true := by simp [State.powering, h.caller]
  refine ⟨hrec.cfg, hrec.written, hrec.planes.1, hrec.planes.2, ?_,
    rowselInv_iff.2 ⟨.inl h.blank, fun _ _ => h.blank, by simp [hpowering]⟩, ?_, ?_, ?_, htr⟩
  · exact registersOk_iff.2 ⟨hrec.ball.1, hrec.ball.2, hrec.counter, hseq.uop, hseq.row, hseq.atick, hlatch,
      fun _ => .inr (by rw [h.caller]; nofun), .inr (.inl h.caller)⟩
  · simp [latchInv, h.latch]
  · simp [callerInv, h.caller, h.running, h.busy, h.frozen, h.blank]
  · simp [haltedInv, h.running]

theorem invariants_of_halt {s : State} (hrec : RecordInv s) (hseq : SeqInv s) (htr : traceInv s = true)
    (h : HaltInv s) : Invariants s := by
  have hpowering : s.powering = true := by simp [State.powering, h.halted]
  refine ⟨hrec.cfg, hrec.written, hrec.planes.1, hrec.planes.2, ?_,
    rowselInv_iff.2 ⟨.inl h.blank, fun _ _ => h.blank, by simp [hpowering]⟩, ?_, ?_, ?_, htr⟩
  · exact registersOk_iff.2 ⟨hrec.ball.1, hrec.ball.2, hrec.counter, hseq.uop, hseq.row, hseq.atick,
      by simp [h.latch], by simp [h.idle], .inl h.halted⟩
  · simp [latchInv, h.halted]
  · simp [callerInv, h.caller]
  · simp [haltedInv, h.blank, h.latch, h.idle, h.shift, h.colout]

theorem Invariants.recordInv {s : State} (h : Invariants s) : RecordInv s := by
  obtain ⟨hcfg, hwritten, hwf, hlow, hregs, -, -, -, -, -⟩ := h
  obtain ⟨hball, hpace, hctr, -⟩ := registersOk_iff.1 hregs
  exact ⟨hcfg, hwritten, ⟨hwf, hlow⟩, ⟨hball, hpace⟩, hctr⟩

theorem Invariants.seqInv {s : State} (h : Invariants s) : SeqInv s := by
  obtain ⟨-, -, -, -, hregs, -, -, -, -, -⟩ := h
  obtain ⟨-, -, -, huop, hrow, hatick, -⟩ := registersOk_iff.1 hregs
  exact ⟨huop, hrow, hatick⟩

theorem Invariants.traceInv {s : State} (h : Invariants s) : traceInv s = true := by
  obtain ⟨-, -, -, -, -, -, -, -, -, htr⟩ := h
  exact htr

/-- A running block under the invariants scans, or its power-down handler waits. -/
theorem Invariants.mode {s : State} (h : Invariants s) (hh : s.halted = false) :
    (s.caller = .sequencer ∧ ScanInv s) ∨ WaitInv s := by
  obtain ⟨-, -, -, -, hregs, hrowsel, hlatch, hcaller, -, -⟩ := h
  obtain ⟨-, -, -, -, -, -, -, hbusy, hpress⟩ := registersOk_iff.1 hregs
  obtain ⟨hcode, hblank, hsettle⟩ := rowselInv_iff.1 hrowsel
  have hlatch' : s.latch = (s.uop == 10#4) := by simpa [latchInv, hh] using hlatch
  have hcaller' : s.caller = .sequencer
      ∨ (s.caller = .handler ∧ s.serBusy = true ∧ s.frozen = true ∧ s.rowsel = 0x00#8) := by
    simpa [callerInv, hh, and_assoc] using hcaller
  obtain hc | ⟨hc, hb, hf, hs⟩ := hcaller'
  · have hpowering : s.powering = false := by simp [State.powering, hh, hc]
    have hnot : s.caller ≠ .handler := by rw [hc]; nofun
    refine .inl ⟨hc, hh, hnot, ?_, hlatch', fun hb => (hbusy hb).resolve_right (absurd hc), hcode, hblank, hsettle hpowering⟩
    obtain hp | hp | hp := hpress
    · exact absurd (hh.symm.trans hp) nofun
    · exact absurd hp hnot
    · exact hp
  · exact .inr ⟨hh, hc, hb, hf, hs, hlatch'⟩

/-- Settles O47: each condition is evaluated on the state after reset. -/
theorem resetMeetsInvariants : Obligations.ResetMeetsInvariants := by
  unfold Obligations.ResetMeetsInvariants Invariants
  decide

/-! ## The port under the invariants (R128, R129) -/

theorem rowOf_zero : rowOf 0x00#8 = .none := rfl

theorem Invariants.code {s : State} (h : Invariants s) : s.rowsel = 0x00#8 ∨ ∃ r ≤ 24, s.rowsel = rowCode r := by
  obtain ⟨-, -, -, -, -, hrowsel, -, -, -, -⟩ := h
  exact (rowselInv_iff.1 hrowsel).1

theorem Invariants.rowOf_ne_reserved {s : State} (h : Invariants s) : rowOf s.rowsel ≠ .reserved := by
  obtain hs | ⟨r, hr, hs⟩ := h.code
  · rw [hs, rowOf_zero]; nofun
  · rw [hs, rowOf_rowCode hr]; nofun

theorem Invariants.stateDefect {s : State} (h : Invariants s) : stateDefect s = none := by
  have hreserved := h.rowOf_ne_reserved
  obtain ⟨-, -, -, -, hregs, -, -, -, -, -⟩ := h
  exact (if_neg hreserved).trans (if_pos hregs)

theorem length_le_one_of_nodup {α : Type} {l : List α} (hn : l.Nodup) (h : ∀ a ∈ l, ∀ b ∈ l, a = b) :
    l.length ≤ 1 := by
  match l, hn, h with
  | [], _, _ => exact Nat.zero_le 1
  | [_], _, _ => exact Nat.le_refl 1
  | a :: b :: l, hn, h =>
    have hab : a = b := h a (by simp) b (by simp)
    exact absurd (by simp [hab]) (List.nodup_cons.1 hn).1

/-- Settles O14: two rows of one code are one row. -/
theorem atMostOneRowPowered : Obligations.AtMostOneRowPowered := by
  intro s h
  refine ⟨h.rowOf_ne_reserved, length_le_one_of_nodup (List.nodup_range.filter _) fun q hq r hr => ?_⟩
  simp only [poweredRows, Config.nRows, List.mem_filter, List.mem_range, beq_iff_eq] at hq hr
  exact rowCode_injOn (by omega) (by omega) (hq.2.symm.trans hr.2)

theorem lit_of_blank {s : State} (h : s.rowsel = 0x00#8) (r c : Nat) : lit s r c = some false := by
  simp only [lit, h, rowOf_zero]

theorem isWaitUop_range : ∀ u : BitVec 4, isWaitUop u = true → 1 ≤ u.toNat ∧ u.toNat ≤ 11 := by decide

theorem ScanInv.blank_of_busy {s : State} (h : ScanInv s) (hb : s.serBusy = true) : s.rowsel = 0x00#8 := by
  obtain ⟨hlo, hhi⟩ := isWaitUop_range _ (h.busy hb)
  exact h.blank hlo hhi

theorem ScanInv.blank_of_latch {s : State} (h : ScanInv s) (hl : s.latch = true) : s.rowsel = 0x00#8 := by
  have hu : s.uop = 10#4 := by simpa [hl] using h.latch
  exact h.blank (by rw [hu]; decide) (by rw [hu]; decide)

/-- Settles O15: the pulse and the bytes fall at UOP 1 to 11, and a waiting handler has blanked the port. -/
theorem burstFallsInsideBlank : Obligations.BurstFallsInsideBlank := by
  intro s h hh hburst
  have hblank : s.rowsel = 0x00#8 := by
    obtain ⟨-, hscan⟩ | hwait := h.mode hh
    · exact hburst.elim hscan.blank_of_latch hscan.blank_of_busy
    · exact hwait.blank
  exact ⟨hblank, lit_of_blank hblank⟩

end Sys2Proof.Machine
end

section
/-! PROOFS. Every step keeps the invariants (R252): the micro-operations and SERSHIFT one by one, the edge with the
power-down in its three outcomes, and that a running block always has a step (R211, R227). -/

open Sys2Proof.Claims

namespace Sys2Proof.Machine

/-! ## The scan's own steps -/

/-- What the scan never writes stays. -/
theorem RecordInv.of_outputsOnly {s t : State} (h : RecordInv s) (ht : OutputsOnly s t) : RecordInv t := by
  rw [ht]
  exact ⟨h.cfg, h.written, h.planes.congr rfl rfl, h.ball, h.counter⟩

/-- The scan runs at a reachable position. -/
structure Scanning (s : State) : Prop where
  seq : SeqInv s
  scan : ScanInv s

theorem Scanning.blank {s : State} (h : Scanning s) (hu : s.uop = 0#4) :
    Scanning ((s.writeRowsel 0x00#8).setUop 1#4) where
  seq := ⟨by simp, h.seq.row, by simp⟩
  scan := {
    running := h.scan.running, caller := h.scan.caller, press := h.scan.press
    latch := by simpa [hu] using h.scan.latch
    busy := fun hb => absurd (h.scan.busy hb) (by rw [hu]; decide)
    code := .inl rfl, blank := fun _ _ => rfl, settle := by simp }

theorem Scanning.tx {s : State} {k : Nat} (hk : k < 4) (h : Scanning s) (hu : s.uop = BitVec.ofNat 4 (2 * k + 1))
    (v : Byte) : Scanning ((s.startByte v).setUop (BitVec.ofNat 4 (2 * k + 2))) := by
  have hto : ∀ k < 4, isWaitUop (BitVec.ofNat 4 (2 * k + 2)) = true := by decide
  have hfrom : ∀ k < 4, (BitVec.ofNat 4 (2 * k + 1) == 10#4) = false ∧ 1 ≤ (BitVec.ofNat 4 (2 * k + 1)).toNat
      ∧ (BitVec.ofNat 4 (2 * k + 1)).toNat ≤ 11 := by decide
  have hwait : ∀ u : BitVec 4, isWaitUop u = true → u.toNat ≤ 13 ∧ u ≠ 13#4 ∧ (u == 10#4) = false ∧ u ≠ 12#4 := by
    decide
  obtain ⟨hle, hne, hlatch, hsettle⟩ := hwait _ (hto k hk)
  obtain ⟨hnolatch, hlo, hhi⟩ := hfrom k hk
  exact {
    seq := ⟨hle, h.seq.row, fun hu' => absurd hu' hne⟩
    scan := {
      running := h.scan.running, caller := h.scan.caller, press := h.scan.press
      latch := h.scan.latch.trans (by rw [hu, hnolatch]; exact hlatch.symm)
      busy := fun _ => hto k hk
      code := h.scan.code
      blank := fun _ _ => h.scan.blank (by rw [hu]; exact hlo) (by rw [hu]; exact hhi)
      settle := fun hu' => absurd hu' hsettle } }

theorem Scanning.wait {s : State} {k : Nat} (hk : k < 4) (h : Scanning s) (hu : s.uop = BitVec.ofNat 4 (2 * k + 2))
    (hb : s.serBusy = false) : Scanning (s.setUop (BitVec.ofNat 4 (2 * k + 3))) := by
  have huops : ∀ k < 4, (BitVec.ofNat 4 (2 * k + 3)).toNat ≤ 13 ∧ BitVec.ofNat 4 (2 * k + 3) ≠ 13#4
      ∧ (BitVec.ofNat 4 (2 * k + 2) == 10#4) = (BitVec.ofNat 4 (2 * k + 3) == 10#4)
      ∧ 1 ≤ (BitVec.ofNat 4 (2 * k + 2)).toNat ∧ (BitVec.ofNat 4 (2 * k + 2)).toNat ≤ 11
      ∧ BitVec.ofNat 4 (2 * k + 3) ≠ 12#4 := by decide
  obtain ⟨hle, hne, hlatch, hlo, hhi, hsettle⟩ := huops k hk
  exact {
    seq := ⟨hle, h.seq.row, fun hu' => absurd hu' hne⟩
    scan := {
      running := h.scan.running, caller := h.scan.caller, press := h.scan.press
      latch := h.scan.latch.trans (by rw [hu]; exact hlatch)
      busy := fun hb' => absurd (hb.symm.trans hb') nofun
      code := h.scan.code
      blank := fun _ _ => h.scan.blank (by rw [hu]; exact hlo) (by rw [hu]; exact hhi)
      settle := fun hu' => absurd hu' hsettle } }

theorem Scanning.latchSet {s : State} (h : Scanning s) (hu : s.uop = 9#4) (hb : s.serBusy = false) :
    Scanning (s.latchSet.setUop 10#4) where
  seq := ⟨by simp, h.seq.row, by simp⟩
  scan := {
    running := h.scan.running, caller := h.scan.caller, press := h.scan.press
    latch := rfl
    busy := fun hb' => absurd (hb.symm.trans hb') nofun
    code := h.scan.code
    blank := fun _ _ => h.scan.blank (by rw [hu]; decide) (by rw [hu]; decide)
    settle := by simp }

theorem Scanning.latchClear {s : State} (h : Scanning s) (hu : s.uop = 10#4) :
    Scanning (s.latchClear.setUop 11#4) where
  seq := ⟨by simp, h.seq.row, by simp⟩
  scan := {
    running := h.scan.running, caller := h.scan.caller, press := h.scan.press
    latch := rfl
    busy := fun hb => absurd (h.scan.busy hb) (by rw [hu]; decide)
    code := h.scan.code
    blank := fun _ _ => h.scan.blank (by rw [hu]; decide) (by rw [hu]; decide)
    settle := by simp }

theorem Scanning.selRow {s : State} (h : Scanning s) (hu : s.uop = 11#4) :
    Scanning ((s.writeRowsel (rowCode s.row.toNat)).setUop 12#4) where
  seq := ⟨by simp, h.seq.row, by simp⟩
  scan := {
    running := h.scan.running, caller := h.scan.caller, press := h.scan.press
    latch := by simpa [hu] using h.scan.latch
    busy := fun hb => absurd (h.scan.busy hb) (by rw [hu]; decide)
    code := .inr ⟨_, h.seq.row, rfl⟩
    blank := fun _ hle => absurd hle (by simp)
    settle := fun _ => rfl }

/-- The counters advance to a position of the scan or to (ATICK, 0, 0) (R141). -/
theorem advance_cases {f : BitVec 2} {r : BitVec 5} (hr : r.toNat ≤ 24) :
    ((advance f r).1 = 0#4 ∨ advance f r = (13#4, 0#2, 0#5)) ∧ (advance f r).2.2.toNat ≤ 24 := by
  by_cases hrow : r.toNat < 24
  · rw [advance_next_row hrow]
    refine ⟨.inl rfl, ?_⟩
    show (r + 1#5).toNat ≤ 24
    rw [BitVec.toNat_add]
    simp only [BitVec.toNat_ofNat]
    omega
  · by_cases hfield : f.toNat < 3
    · rw [advance_next_field hrow hfield]
      exact ⟨.inl rfl, Nat.zero_le 24⟩
    · rw [advance_to_atick hrow hfield]
      exact ⟨.inr rfl, Nat.zero_le 24⟩

theorem Scanning.settle {s : State} (h : Scanning s) (hu : s.uop = 12#4) :
    Scanning (s.emit .delay).advanceSeq := by
  obtain ⟨hto, hrow⟩ := advance_cases (f := s.field) h.seq.row
  have huop : (advance s.field s.row).1 = 0#4 ∨ (advance s.field s.row).1 = 13#4 :=
    hto.imp_right (congrArg Prod.fst)
  have houtside : ∀ u : BitVec 4, u = 0#4 ∨ u = 13#4 →
      u.toNat ≤ 13 ∧ (u == 10#4) = false ∧ ¬ (1 ≤ u.toNat ∧ u.toNat ≤ 11) ∧ u ≠ 12#4 := by decide
  obtain ⟨hle, hlatch, hblank, hsettle⟩ := houtside _ huop
  exact {
    seq := ⟨hle, hrow, fun hu' => by
      obtain h0 | h13 := hto
      · exact absurd (h0.symm.trans hu') (by decide)
      · exact ⟨congrArg (fun p => p.2.1) h13, congrArg (fun p => p.2.2) h13⟩⟩
    scan := {
      running := h.scan.running, caller := h.scan.caller, press := h.scan.press
      latch := h.scan.latch.trans (by rw [hu]; exact hlatch.symm)
      busy := fun hb => absurd (h.scan.busy hb) (by rw [hu]; decide)
      code := h.scan.code
      blank := fun hlo hhi => absurd ⟨hlo, hhi⟩ hblank
      settle := fun hu' => absurd hu' hsettle } }

/-- The byte completes where it was sent. -/
theorem Scanning.shiftByte {s : State} (h : Scanning s) : Scanning s.shiftByte where
  seq := ⟨h.seq.uop, h.seq.row, h.seq.atick⟩
  scan := {
    running := h.scan.running, caller := h.scan.caller, press := h.scan.press, latch := h.scan.latch
    busy := nofun
    code := h.scan.code, blank := h.scan.blank, settle := h.scan.settle }

theorem Scanning.countEdge {s : State} (h : Scanning s) (hp : s.pressCnt + 1 < s.cfg.pressEdgeThreshold) :
    Scanning s.countEdge where
  seq := ⟨h.seq.uop, h.seq.row, h.seq.atick⟩
  scan := { h.scan with press := hp }

/-- ATICK leaves the outputs and goes to (BLANK, 0, 0). -/
theorem Scanning.engine {s t : State} (h : Scanning s) (hu : s.uop = 13#4) (ht : EngineOnly s t)
    (hseq : t.uop = 0#4 ∧ t.row = 0#5) : Scanning t := by
  obtain ⟨hrowsel, hlatch, -, hbusy, hhalted, -, -, hpress, hcfg, -, -, hcaller, -⟩ := ht.outputsKept
  exact {
    seq := ⟨by rw [hseq.1]; decide, by rw [hseq.2]; decide, by rw [hseq.1]; nofun⟩
    scan := {
      running := hhalted.trans h.scan.running, caller := hcaller ▸ h.scan.caller
      press := by rw [hpress, hcfg]; exact h.scan.press
      latch := by rw [hlatch, h.scan.latch, hu, hseq.1]; decide
      busy := fun hb => absurd (h.scan.busy (hbusy ▸ hb)) (by rw [hu]; decide)
      code := by rw [hrowsel]; exact h.scan.code
      blank := by rw [hseq.1]; nofun
      settle := by rw [hseq.1]; nofun } }

/-! ## ATICK's record -/

theorem RecordInv.atick {s t : State} (h : RecordInv s) (ht : atickStep s = .next t) : RecordInv t := by
  obtain ⟨hh, ⟨hu, hf, hr⟩, hc, -⟩ := atickStep_eq_next.1 ht
  obtain ⟨u, hgen, hstep, -, hcounter, hball⟩ := atickStep_completes hh hu hf hr hc h.ball
  obtain rfl := next_eq_next.1 (hstep.symm.trans ht)
  have hplanes : PlanesOk u := planesOk_runGenerator h.planes hgen
  obtain ⟨-, -, -, -, -, -, -, -, hcfg, -, -, -, hwritten, -⟩ := (engineOnly_atickStep ht).outputsKept
  exact ⟨hcfg ▸ h.cfg, hwritten.trans h.written, hplanes.congr (by simp) (by simp), hball, hcounter⟩

/-! ## The power-down (R215, R227) -/

/-- The power-down's three outcomes: the halt, a wait at the byte it found in flight, or, that byte completed, a
wait at one of its own. -/
theorem powerDown_cases (s : State) :
    s.powerDown = afterPowerDown s
    ∨ (s.serBusy = true ∧ s.frozen = true ∧ s.powerDown = { s with caller := .handler })
    ∨ ∃ k u, (u = s ∨ u = s.shiftByte) ∧ s.powerDown
        = { u with rowsel := 0x00#8, sdr := 0x00#8, serBusy := true, shift := u.shift <<< (8 * k),
                   serialLeft := some 0, caller := .handler,
                   trace := List.replicate (k + 1) (.byte 0x00#8) ++ .sel 0x00#8 :: u.trace } := by
  by_cases hc : s.completes (powerDownBytes s) = true
  · exact .inl (powerDown_eq_afterPowerDown hc)
  · obtain ⟨k, hl, hk⟩ : ∃ k, s.serialLeft = some k ∧ k < 16 + s.serBusy.toNat := by
      cases hl : s.serialLeft with
      | none => simp [State.completes, hl] at hc
      | some k =>
        refine ⟨k, rfl, Nat.lt_of_not_le fun hle => hc ?_⟩
        rw [State.completes, hl]
        exact decide_eq_true hle
    obtain hb | hb := Bool.eq_false_or_eq_true s.serBusy
    · rw [hb] at hk
      cases k with
      | zero =>
        have hf : s.frozen = true := by simp [State.frozen, hl]
        exact .inr (.inl ⟨hb, hf, powerDown_frozen hb hf⟩)
      | succ k =>
        have hf : s.frozen = false := by simp [State.frozen, hl]
        have hl' : s.shiftByte.serialLeft = some k := by simp [hl]
        refine .inr (.inr ⟨k, s.shiftByte, .inr rfl, ?_⟩)
        rw [powerDown_busy hb hf, powerDown_eq_held rfl (Nat.lt_of_succ_lt_succ hk) hl']
    · rw [hb] at hk
      exact .inr (.inr ⟨k, s, .inl rfl, powerDown_eq_held hb hk hl⟩)

/-- Where an edge interrupts the scan: what the power-down finds. -/
structure Interrupted (s : State) : Prop where
  record : RecordInv s
  seq : SeqInv s
  trace : traceInv s = true
  running : s.halted = false
  caller : s.caller = .sequencer
  latch : s.latch = (s.uop == 10#4)
  blank : s.serBusy = true → s.rowsel = 0x00#8

theorem Scanning.interrupted {s : State} (hrec : RecordInv s) (htr : traceInv s = true) (hc : s.caller = .sequencer)
    (h : Scanning s) : Interrupted s.countEdge where
  record := hrec.of_outputsOnly rfl
  seq := ⟨h.seq.uop, h.seq.row, h.seq.atick⟩
  trace := traceInv_congr htr rfl rfl
  running := h.scan.running
  caller := hc
  latch := h.scan.latch
  blank := h.scan.blank_of_busy

theorem Interrupted.shiftByte {s : State} (h : Interrupted s) : Interrupted s.shiftByte where
  record := h.record.of_outputsOnly rfl
  seq := ⟨h.seq.uop, h.seq.row, h.seq.atick⟩
  trace := traceInv_congr h.trace rfl rfl
  running := h.running
  caller := h.caller
  latch := h.latch
  blank := nofun

/-- The port blanked and zero bytes sent keep blank before select. -/
theorem Interrupted.trace_zeros {s : State} (h : Interrupted s) (n : Nat) {t : State} (hr : t.rowsel = 0x00#8)
    (ht : t.trace = List.replicate n (.byte 0x00#8) ++ .sel 0x00#8 :: s.trace) : traceInv t = true := by
  have hblank : traceInv { s with rowsel := 0x00#8, trace := .sel 0x00#8 :: s.trace } = true :=
    traceInv_sel h.trace rfl rfl (.inl rfl)
  exact traceInv_bytes hblank ht hr

theorem Interrupted.afterPowerDown {s : State} (h : Interrupted s) (hrec : RecordInv (afterPowerDown s)) :
    Invariants (afterPowerDown s) := by
  refine invariants_of_halt hrec ⟨h.seq.uop, h.seq.row, h.seq.atick⟩ ?_
    ⟨rfl, h.caller, rfl, rfl, rfl, rfl, rfl⟩
  have hzeros := h.trace_zeros 16 (t := { s with
    rowsel := 0x00#8, trace := List.replicate 16 (.byte 0x00#8) ++ .sel 0x00#8 :: s.trace }) rfl rfl
  rw [traceInv_iff] at hzeros ⊢
  simpa [Claims.afterPowerDown, blankBeforeSelect, lastSel] using hzeros

/-- Every outcome of the power-down meets the invariants. -/
theorem Interrupted.powerDown {s : State} (h : Interrupted s) : Invariants s.powerDown := by
  have hrec : RecordInv s.powerDown := h.record.of_outputsOnly (linkOnly_powerDown s).outputsOnly
  obtain hend | ⟨hb, hf, hend⟩ | ⟨k, u, hu, hend⟩ := powerDown_cases s
  · rw [hend] at hrec ⊢
    exact h.afterPowerDown hrec
  · rw [hend] at hrec ⊢
    exact invariants_of_wait hrec ⟨h.seq.uop, h.seq.row, h.seq.atick⟩ h.trace
      ⟨h.running, rfl, hb, hf, h.blank hb, h.latch⟩
  · have hint : Interrupted u := hu.elim (fun e => e ▸ h) (fun e => e ▸ h.shiftByte)
    rw [hend] at hrec ⊢
    exact invariants_of_wait hrec ⟨hint.seq.uop, hint.seq.row, hint.seq.atick⟩ (hint.trace_zeros (k + 1) rfl rfl)
      ⟨hint.running, rfl, rfl, rfl, rfl, hint.latch⟩

/-! ## The step -/

theorem Invariants.scanning {s : State} (h : Invariants s) (hh : s.halted = false) (hc : s.caller ≠ .handler) :
    s.caller = .sequencer ∧ Scanning s := by
  obtain ⟨hseq, hscan⟩ | hwait := h.mode hh
  · exact ⟨hseq, h.seqInv, hscan⟩
  · exact absurd hwait.caller hc

/-- An edge is counted, or begins the power-down. -/
theorem invariants_btnedge {s t : State} (hrec : RecordInv s) (htr : traceInv s = true) (hc : s.caller = .sequencer)
    (h : Scanning s) (ht : exec .btnedge s = .next t) : Invariants t := by
  obtain ⟨-, -, hp, rfl⟩ := btnedge_eq_next.1 ht
  by_cases hat : s.pressCnt + 1 = s.cfg.pressEdgeThreshold
  · rw [takeEdge_threshold hat]
    exact (h.interrupted hrec htr hc).powerDown
  · rw [takeEdge_below hat]
    have hcounted : Scanning s.countEdge := h.countEdge (by omega)
    exact invariants_of_scan (hrec.of_outputsOnly rfl) hcounted.seq (traceInv_congr htr rfl rfl) hc hcounted.scan

/-- The micro-operation of the sequencer's step, with no byte in flight. -/
theorem Scanning.uop {s t : State} {i : Instr} (h : Scanning s) (hb : s.serBusy = false)
    (hi : uopInstr s.uop = some i) (ht : exec i s = .next t) : Scanning t := by
  have htx {k : Nat} (hk : k < 4) (ht : txStep k s = .next t) : Scanning t := by
    obtain ⟨-, hu, -, -, rfl⟩ := txStep_eq_next.1 ht
    exact h.tx hk hu _
  have hwait {k : Nat} (hk : k < 4) (ht : waitStep k s = .next t) : Scanning t := by
    obtain ⟨-, hu, rfl⟩ := waitStep_eq_next.1 ht
    rw [hb, if_neg (by decide)]
    exact h.wait hk hu hb
  have hmem := uopInstr_cases hi
  simp only [List.mem_cons, Prod.mk.injEq, List.not_mem_nil, or_false] at hmem
  obtain ⟨hu, rfl⟩ | ⟨-, rfl⟩ | ⟨-, rfl⟩ | ⟨-, rfl⟩ | ⟨-, rfl⟩ | ⟨-, rfl⟩ | ⟨-, rfl⟩ | ⟨-, rfl⟩ | ⟨-, rfl⟩ | ⟨hu, rfl⟩
    | ⟨hu, rfl⟩ | ⟨hu, rfl⟩ | ⟨hu, rfl⟩ | ⟨hu, rfl⟩ := hmem
  · obtain ⟨-, -, rfl⟩ := blankStep_eq_next.1 ht
    exact h.blank hu
  · exact htx (by decide) ht
  · exact hwait (by decide) ht
  · exact htx (by decide) ht
  · exact hwait (by decide) ht
  · exact htx (by decide) ht
  · exact hwait (by decide) ht
  · exact htx (by decide) ht
  · exact hwait (by decide) ht
  · obtain ⟨-, -, -, rfl⟩ := latchSetStep_eq_next.1 ht
    exact h.latchSet hu hb
  · obtain ⟨-, -, -, rfl⟩ := latchClrStep_eq_next.1 ht
    exact h.latchClear hu
  · obtain ⟨-, -, -, -, rfl⟩ := selRowStep_eq_next.1 ht
    exact h.selRow hu
  · obtain ⟨-, -, -, rfl⟩ := settleStep_eq_next.1 ht
    exact h.settle hu
  · have hengine := engineOnly_atickStep ht
    obtain ⟨-, -, -, u, -, rfl⟩ := atickStep_eq_next.1 ht
    exact h.engine hu hengine ⟨rfl, rfl⟩

/-- The scan goes on, whichever agent of it steps. -/
theorem Scanning.agent {s t : State} {i : Instr} (h : Scanning s) (hi : AgentOf i s) (ht : exec i s = .next t) :
    Scanning t := by
  obtain ⟨-, -, rfl⟩ | ⟨hb, hi⟩ := hi
  · obtain ⟨-, -, -, rfl⟩ := sershift_eq_next.1 ht
    exact h.shiftByte
  · exact h.uop hb hi ht

/-- Only ATICK writes the record, and it keeps it a reachable one. -/
theorem RecordInv.agent {s t : State} {i : Instr} (h : RecordInv s) (hi : AgentOf i s) (ht : exec i s = .next t) :
    RecordInv t := by
  by_cases hatick : i = .atick
  · subst hatick
    exact h.atick ht
  · exact h.of_outputsOnly (exec_writesOutputs (not_writesAnimation_of_ne_atick hi.mem_uops hatick) s t ht)

/-- Settles O46: a step holds, takes an edge, completes a byte or performs a micro-operation. -/
theorem stepKeepsInvariants : Obligations.StepKeepsInvariants := by
  intro s t h ht
  obtain ⟨hh, -, e, ⟨-, rfl⟩ | ⟨i, hc, hexec, hi⟩⟩ := step_free_cases h.recordInv.written ht
  · exact h
  · have h' : Invariants (s.setEdges e) := h
    obtain ⟨hseq, hscan⟩ := h'.scanning hh hc
    obtain rfl | hi := hi
    · exact invariants_btnedge h'.recordInv h'.traceInv hseq hscan hexec
    · have hagent : AgentOf i (s.setEdges e) := hi
      obtain ⟨⟨-, hcaller, -, -⟩, htrace, -⟩ := exec_uop_bookKept hagent.mem_uops hexec
      have hscan' := hscan.agent hagent hexec
      exact invariants_of_scan (h'.recordInv.agent hagent hexec) hscan'.seq (htrace h'.traceInv) (hcaller.trans hseq)
        hscan'.scan

end Sys2Proof.Machine
end

section
/-! PROOFS. A running block always has a step (R211, R227), and every step keeps the burst invariant (R42, R112, R249):
the chain holds the bytes of the current row's word sent so far, so that LATCHSET commits the whole word. -/

open Sys2Proof.Claims

namespace Sys2Proof.Machine

/-! ## A running block steps (R211, R227) -/

theorem step_wait {s : State} (h : Invariants s) (hw : WaitInv s) : step s = .next s := by
  simp only [step, pick, h.recordInv.written, whenSound_of h.stateDefect, whenRunning, hw.running, hw.caller,
    Bool.false_eq_true, if_false, if_true, outcome_held]

theorem exists_uopInstr : ∀ u : BitVec 4, u.toNat ≤ 13 → ∃ i, uopInstr u = some i := by
  have key : ∀ u : BitVec 4, u.toNat ≤ 13 → (uopInstr u).isSome = true := by decide
  exact fun u hu => Option.isSome_iff_exists.1 (key u hu)

/-- With no byte in flight the micro-operation SEQ.UOP names finds its preconditions. -/
theorem Scanning.uop_completes {s : State} {i : Instr} (hrec : RecordInv s) (h : Scanning s) (hb : s.serBusy = false)
    (hi : uopInstr s.uop = some i) : ∃ t, exec i s = .next t := by
  have hh := h.scan.running
  have hmem := uopInstr_cases hi
  simp only [List.mem_cons, Prod.mk.injEq, List.not_mem_nil, or_false] at hmem
  obtain ⟨hu, rfl⟩ | ⟨hu, rfl⟩ | ⟨hu, rfl⟩ | ⟨hu, rfl⟩ | ⟨hu, rfl⟩ | ⟨hu, rfl⟩ | ⟨hu, rfl⟩ | ⟨hu, rfl⟩ | ⟨hu, rfl⟩
    | ⟨hu, rfl⟩ | ⟨hu, rfl⟩ | ⟨hu, rfl⟩ | ⟨hu, rfl⟩ | ⟨hu, rfl⟩ := hmem
  · exact ⟨_, blankStep_eq_next.2 ⟨hh, hu, rfl⟩⟩
  · exact ⟨_, txStep_eq_next.2 ⟨hh, hu, hb, h.seq.row, rfl⟩⟩
  · exact ⟨_, waitStep_eq_next.2 ⟨hh, hu, rfl⟩⟩
  · exact ⟨_, txStep_eq_next.2 ⟨hh, hu, hb, h.seq.row, rfl⟩⟩
  · exact ⟨_, waitStep_eq_next.2 ⟨hh, hu, rfl⟩⟩
  · exact ⟨_, txStep_eq_next.2 ⟨hh, hu, hb, h.seq.row, rfl⟩⟩
  · exact ⟨_, waitStep_eq_next.2 ⟨hh, hu, rfl⟩⟩
  · exact ⟨_, txStep_eq_next.2 ⟨hh, hu, hb, h.seq.row, rfl⟩⟩
  · exact ⟨_, waitStep_eq_next.2 ⟨hh, hu, rfl⟩⟩
  · exact ⟨_, latchSetStep_eq_next.2 ⟨hh, hu, hb, rfl⟩⟩
  · exact ⟨_, latchClrStep_eq_next.2 ⟨hh, hu, by rw [h.scan.latch, hu]; rfl, rfl⟩⟩
  · exact ⟨_, selRowStep_eq_next.2 ⟨hh, hu, h.seq.row, h.scan.blank (by rw [hu]; decide) (by rw [hu]; decide), rfl⟩⟩
  · exact ⟨_, settleStep_eq_next.2 ⟨hh, hu, h.seq.row, rfl⟩⟩
  · obtain ⟨hf, hr⟩ := h.seq.atick hu
    obtain ⟨t, -, ht, -⟩ := atickStep_completes hh hu hf hr hrec.counter hrec.ball
    exact ⟨_, ht⟩

theorem Scanning.step_completes {s : State} (hinv : Invariants s) (h : Scanning s) : ∃ t, step s = .next t := by
  have hw := hinv.recordInv.written
  have hd := hinv.stateDefect
  have hh := h.scan.running
  have hc := h.scan.caller
  by_cases he : edgeDue s
  · obtain ⟨rest, he⟩ := he
    exact ⟨_, (step_edgeDue hw hd hh hc he).trans (btnedge_eq_next.2 ⟨hh, hc, h.scan.press, rfl⟩)⟩
  · obtain hb | hb := Bool.eq_false_or_eq_true s.serBusy
    · obtain hf | hf := Bool.eq_false_or_eq_true s.frozen
      · exact ⟨_, step_stuck hw hd hh hc he (by rw [State.stuck, hb, hf]; rfl)⟩
      · exact ⟨_, (step_sershift hw hd hh hc he hb hf).trans (sershift_eq_next.2 ⟨hh, hb, hf, rfl⟩)⟩
    · obtain ⟨i, hi⟩ := exists_uopInstr s.uop h.seq.uop
      have hinv' : Invariants (s.setEdges (nearer s.edges)) := hinv
      obtain ⟨t, ht⟩ := (hinv'.scanning hh hc).2.uop_completes hinv'.recordInv hb hi
      exact ⟨t, (step_uop hw hd hh hc he hb hi).trans ht⟩

/-- Settles O50: the scan always has an agent whose preconditions hold, and a waiting handler stands still. -/
theorem runningBlockAlwaysSteps : Obligations.RunningBlockAlwaysSteps := by
  intro s h hh
  have hstuck : s.stuck = true → s.serBusy = true := fun hs => ((Bool.and_eq_true ..).mp hs).1
  obtain ⟨-, hscan⟩ | hwait := h.mode hh
  · have hc := hscan.caller
    exact ⟨Scanning.step_completes h ⟨h.seqInv, hscan⟩, fun hs => ⟨hscan.blank_of_busy (hstuck hs),
      fun _ he => step_stuck h.recordInv.written h.stateDefect hh hc he hs, fun hc' => absurd hc' hc⟩⟩
  · exact ⟨⟨s, step_wait h hwait⟩, fun _ => ⟨hwait.blank,
      fun hc => absurd (hwait.caller.symm.trans hc) nofun, fun _ => step_wait h hwait⟩⟩

/-! ## The bytes of a word in the chain (R42, R82) -/

/-- The low `k` bytes of the chain `v` are the top `k` bytes of the word `w`. -/
def Sent (k : Nat) (w v : Word) : Prop := v.toNat % 2 ^ (8 * k) = w.toNat / 2 ^ (32 - 8 * k)

theorem sent_zero (w v : Word) : Sent 0 w v := by
  have hw := w.isLt
  simp only [Sent]
  omega

theorem sent_one (w v : Word) : Sent 1 w v ↔ v.extractLsb' 0 8 = byteOf 0 w := by
  have hw := w.isLt
  rw [← BitVec.toNat_inj, toNat_byteOf, BitVec.extractLsb'_toNat, Nat.shiftRight_zero, Sent]
  omega

theorem sent_two (w v : Word) : Sent 2 w v ↔ v.extractLsb' 0 16 = w.extractLsb' 16 16 := by
  have hw := w.isLt
  rw [← BitVec.toNat_inj, BitVec.extractLsb'_toNat, BitVec.extractLsb'_toNat, Nat.shiftRight_zero,
    Nat.shiftRight_eq_div_pow, Sent]
  omega

theorem sent_three (w v : Word) : Sent 3 w v ↔ v.extractLsb' 0 24 = w.extractLsb' 8 24 := by
  have hw := w.isLt
  rw [← BitVec.toNat_inj, BitVec.extractLsb'_toNat, BitVec.extractLsb'_toNat, Nat.shiftRight_zero,
    Nat.shiftRight_eq_div_pow, Sent]
  omega

theorem sent_four (w v : Word) : Sent 4 w v ↔ v = w := by
  have hw := w.isLt
  have hv := v.isLt
  rw [← BitVec.toNat_inj, Sent]
  omega

/-- The next byte of the word pushed into the chain (R226). -/
theorem Sent.push {k : Nat} (hk : k < 4) {w v : Word} (h : Sent k w v) :
    Sent (k + 1) w (show Word from v.extractLsb' 0 24 ++ byteOf k w) := by
  have hw := w.isLt
  rw [Sent, toNat_pushByte, toNat_byteOf]
  unfold Sent at h
  match k, hk with
  | 0, _ | 1, _ | 2, _ | 3, _ => omega

/-! ## The burst invariant at each micro-operation -/

theorem burstInv_powering {s : State} (h : s.powering = true) : burstInv s = true := by
  simp [burstInv, h]

theorem burstInv_outside {s : State} (h : s.uop = 0#4 ∨ s.uop = 13#4) : burstInv s = true := by
  obtain h | h := h <;> simp [burstInv, h]

/-- At TXk, and at LATCHSET after the fourth byte, `k` bytes are in the chain. -/
theorem burstInv_between {k : Nat} {s : State} (hk : k ≤ 4) (hp : s.powering = false)
    (hu : s.uop = BitVec.ofNat 4 (2 * k + 1)) : burstInv s = true ↔ Sent k (currentWord s) s.shift := by
  match k, hk with
  | 0, _ => simp [burstInv, hu, sent_zero]
  | 1, _ => simp [burstInv, hu, hp, State.rowWord, word_planeOf_field, sent_one]
  | 2, _ => simp [burstInv, hu, hp, State.rowWord, word_planeOf_field, sent_two]
  | 3, _ => simp [burstInv, hu, hp, State.rowWord, word_planeOf_field, sent_three]
  | 4, _ => simp [burstInv, hu, hp, State.rowWord, word_planeOf_field, sent_four]

/-- At WAITk byte k is the one in flight after `k` others, or is in the chain with them. -/
theorem burstInv_wait {k : Nat} {s : State} (hk : k < 4) (hp : s.powering = false)
    (hu : s.uop = BitVec.ofNat 4 (2 * k + 2)) :
    burstInv s = true ↔ if s.serBusy then s.sdr = byteOf k (currentWord s) ∧ Sent k (currentWord s) s.shift
      else Sent (k + 1) (currentWord s) s.shift := by
  obtain hb | hb := Bool.eq_false_or_eq_true s.serBusy
  · match k, hk with
    | 0, _ => simp [burstInv, hu, hp, hb, State.rowWord, word_planeOf_field, sent_zero]
    | 1, _ => simp [burstInv, hu, hp, hb, State.rowWord, word_planeOf_field, sent_one]
    | 2, _ => simp [burstInv, hu, hp, hb, State.rowWord, word_planeOf_field, sent_two]
    | 3, _ => simp [burstInv, hu, hp, hb, State.rowWord, word_planeOf_field, sent_three]
  · match k, hk with
    | 0, _ => simp [burstInv, hu, hp, hb, State.rowWord, word_planeOf_field, sent_one]
    | 1, _ => simp [burstInv, hu, hp, hb, State.rowWord, word_planeOf_field, sent_two]
    | 2, _ => simp [burstInv, hu, hp, hb, State.rowWord, word_planeOf_field, sent_three]
    | 3, _ => simp [burstInv, hu, hp, hb, State.rowWord, word_planeOf_field, sent_four]

/-- From LATCHCLR to SETTLE the column outputs show the word. -/
theorem burstInv_shown {s : State} (hp : s.powering = false) (hu : s.uop = 10#4 ∨ s.uop = 11#4 ∨ s.uop = 12#4) :
    burstInv s = true ↔ s.colout = currentWord s := by
  obtain hu | hu | hu := hu <;> simp [burstInv, hu, hp, State.rowWord, word_planeOf_field]

/-! ## The steps -/

theorem ScanInv.not_powering {s : State} (h : ScanInv s) : s.powering = false := by
  simp [State.powering, h.running, h.caller]

/-- A UOP code of a WAITk, by its k. -/
theorem isWaitUop_cases : ∀ u : BitVec 4, isWaitUop u = true → ∃ k < 4, u = BitVec.ofNat 4 (2 * k + 2) := by decide

/-- The byte completed is the right one, so one more byte of the word is in the chain. -/
theorem burstInv_shiftByte {s : State} (h : ScanInv s) (hb : s.serBusy = true) (hi : burstInv s = true) :
    burstInv s.shiftByte = true := by
  obtain ⟨k, hk, hu⟩ := isWaitUop_cases _ (h.busy hb)
  rw [burstInv_wait hk h.not_powering hu, hb, if_pos rfl] at hi
  obtain ⟨hsdr, hsent⟩ := hi
  have hpush : Sent (k + 1) (currentWord s) s.shiftByte.shift := by
    have hpush := hsent.push hk
    rwa [← hsdr] at hpush
  exact Iff.mpr (burstInv_wait hk h.not_powering hu) hpush

/-- The micro-operation of the sequencer's step, with no byte in flight. -/
theorem burstInv_uop {s t : State} {i : Instr} (h : ScanInv s) (hb : s.serBusy = false)
    (hi : uopInstr s.uop = some i) (hinv : burstInv s = true) (ht : exec i s = .next t) : burstInv t = true := by
  have hp := h.not_powering
  have htx {k : Nat} (hk : k < 4) (ht : txStep k s = .next t) : burstInv t = true := by
    obtain ⟨-, hu, -, -, rfl⟩ := txStep_eq_next.1 ht
    have hsent := (burstInv_between hk.le hp hu).1 hinv
    refine Iff.mpr (burstInv_wait hk hp rfl) ⟨?_, hsent⟩
    rw [word_planeOf_field]
    rfl
  have hwait {k : Nat} (hk : k < 4) (ht : waitStep k s = .next t) : burstInv t = true := by
    obtain ⟨-, hu, rfl⟩ := waitStep_eq_next.1 ht
    rw [burstInv_wait hk hp hu, hb, if_neg (by decide)] at hinv
    rw [hb, if_neg (by decide)]
    exact Iff.mpr (burstInv_between (k := k + 1) hk hp rfl) hinv
  have hmem := uopInstr_cases hi
  simp only [List.mem_cons, Prod.mk.injEq, List.not_mem_nil, or_false] at hmem
  obtain ⟨hu, rfl⟩ | ⟨-, rfl⟩ | ⟨-, rfl⟩ | ⟨-, rfl⟩ | ⟨-, rfl⟩ | ⟨-, rfl⟩ | ⟨-, rfl⟩ | ⟨-, rfl⟩ | ⟨-, rfl⟩ | ⟨hu, rfl⟩
    | ⟨hu, rfl⟩ | ⟨hu, rfl⟩ | ⟨hu, rfl⟩ | ⟨hu, rfl⟩ := hmem
  · obtain ⟨-, -, rfl⟩ := blankStep_eq_next.1 ht
    exact Iff.mpr (burstInv_between (k := 0) (by decide) hp rfl) (sent_zero _ _)
  · exact htx (by decide) ht
  · exact hwait (by decide) ht
  · exact htx (by decide) ht
  · exact hwait (by decide) ht
  · exact htx (by decide) ht
  · exact hwait (by decide) ht
  · exact htx (by decide) ht
  · exact hwait (by decide) ht
  · obtain ⟨-, -, -, rfl⟩ := latchSetStep_eq_next.1 ht
    have hall := (sent_four _ _).1 ((burstInv_between (k := 4) (by decide) hp hu).1 hinv)
    exact Iff.mpr (burstInv_shown hp (.inl rfl)) hall
  · obtain ⟨-, -, -, rfl⟩ := latchClrStep_eq_next.1 ht
    exact Iff.mpr (burstInv_shown hp (.inr (.inl rfl))) ((burstInv_shown hp (.inl hu)).1 hinv)
  · obtain ⟨-, -, -, -, rfl⟩ := selRowStep_eq_next.1 ht
    exact Iff.mpr (burstInv_shown hp (.inr (.inr rfl))) ((burstInv_shown hp (.inr (.inl hu))).1 hinv)
  · obtain ⟨-, -, hr, rfl⟩ := settleStep_eq_next.1 ht
    exact burstInv_outside ((advance_cases (f := s.field) hr).1.imp_right (congrArg Prod.fst))
  · obtain ⟨-, -, -, u, -, rfl⟩ := atickStep_eq_next.1 ht
    exact burstInv_outside (.inl rfl)

/-- Wherever it stops, the power-down of an interrupted scan has begun. -/
theorem powerDown_powering {s : State} : s.powerDown.powering = true := by
  obtain hend | ⟨-, -, hend⟩ | ⟨k, u, -, hend⟩ := powerDown_cases s
  · rw [hend]; rfl
  · rw [hend]; simp [State.powering]
  · rw [hend]; simp [State.powering]

/-- An edge changes nothing the burst invariant reads, or begins the power-down. -/
theorem burstInv_takeEdge {s : State} (h : burstInv s = true) : burstInv s.takeEdge = true := by
  by_cases hat : s.pressCnt + 1 = s.cfg.pressEdgeThreshold
  · rw [takeEdge_threshold hat]
    exact burstInv_powering powerDown_powering
  · rw [takeEdge_below hat]
    exact h

/-- Settles O48: a step holds, takes an edge, completes a byte or performs a micro-operation. -/
theorem stepKeepsBurstInvariant : Obligations.StepKeepsBurstInvariant := by
  intro s t h hburst ht
  obtain ⟨hh, -, e, ⟨-, rfl⟩ | ⟨i, hc, hexec, hi⟩⟩ := step_free_cases h.recordInv.written ht
  · exact hburst
  · have hburst' : burstInv (s.setEdges e) = true := hburst
    have hscan : Scanning (s.setEdges e) := (Invariants.scanning (s := s.setEdges e) h hh hc).2
    obtain rfl | ⟨hb, -, rfl⟩ | ⟨hb, hi⟩ := hi
    · obtain ⟨-, -, -, rfl⟩ := btnedge_eq_next.1 hexec
      exact burstInv_takeEdge hburst'
    · obtain ⟨-, -, -, rfl⟩ := sershift_eq_next.1 hexec
      exact burstInv_shiftByte hscan.scan hb hburst'
    · exact burstInv_uop hscan.scan hb hi hburst' hexec

/-- Settles O49: at SETTLE the port names the current row and the columns show its word; a waiting handler has
blanked the port. -/
theorem settleLightsCurrentRow : Obligations.SettleLightsCurrentRow := by
  intro s h hburst hh hu q c hq
  obtain ⟨hseq, hscan⟩ | hwait := h.mode hh
  · have hword : s.colout = currentWord s := (burstInv_shown hscan.not_powering (.inr (.inr hu))).1 hburst
    have hrow : rowOf s.rowsel = .row s.row.toNat := by rw [hscan.settle hu, rowOf_rowCode h.seqInv.row]
    have heq : (s.row.toNat == q) = decide (q = s.row.toNat) := Bool.beq_comm.trans (beq_eq_decide ..)
    simp only [lit, hrow, hword, hseq, heq]
    rfl
  · rw [lit_of_blank hwait.blank, hwait.caller]
    rfl

end Sys2Proof.Machine
end

section
/-! PROOFS. An edge below the threshold commutes with the micro-operations and SERSHIFT (R216, R217): none of them reads
PRESS_CNT, so each does the same before and after it is counted, and none of them makes the next edge another one. -/

open Sys2Proof.Claims

namespace Sys2Proof.Machine

/-! ## Operations that do not read PRESS_CNT -/

/-- The operation does after one more edge counted what it does before, stops included. -/
def CountsThrough (f : State → Result) : Prop := ∀ s : State, f s.countEdge = andThen (f s) (always State.countEdge)

theorem countsThrough_always {f : State → State} (h : ∀ s : State, f s.countEdge = (f s).countEdge) :
    CountsThrough (always f) :=
  fun s => congrArg _ (h s)

theorem countsThrough_andThen {f g : State → Result} (hf : CountsThrough f) (hg : CountsThrough g) :
    CountsThrough (fun s => andThen (f s) g) := by
  intro s
  show andThen (f s.countEdge) g = andThen (andThen (f s) g) (always State.countEdge)
  rw [hf, andThen_assoc, andThen_assoc]
  exact congrArg _ (funext hg)

theorem countsThrough_runAll {fs : List (State → Result)} (h : ∀ f ∈ fs, CountsThrough f) :
    CountsThrough (runAll fs) := by
  induction fs with
  | nil => exact fun _ => rfl
  | cons f fs ih => exact countsThrough_andThen (h f (by simp)) (ih fun g hg => h g (by simp [hg]))

theorem countsThrough_running {k : State → Result} (hk : CountsThrough k) : CountsThrough (running k) := by
  intro s
  cases hh : s.halted with
  | true => rw [running_halted hh, running_halted (s := s.countEdge) hh]; rfl
  | false => rw [running_of hh, running_of (s := s.countEdge) hh, hk]

theorem countsThrough_require {b : State → Bool} {r : Refusal} {k : State → Result}
    (hb : ∀ s : State, b s.countEdge = b s) (hk : CountsThrough k) : CountsThrough (fun s => require (b s) r k s) := by
  intro s
  show require (b s.countEdge) r k s.countEdge = andThen (require (b s) r k s) (always State.countEdge)
  rw [hb]
  cases b s with
  | true => exact hk s
  | false => rfl

theorem countsThrough_atUop (u : BitVec 4) {k : State → Result} (hk : CountsThrough k) : CountsThrough (atUop u k) :=
  countsThrough_require (b := fun s => s.uop == u) (fun _ => rfl) hk

theorem countsThrough_whenIdle {k : State → Result} (hk : CountsThrough k) : CountsThrough (whenIdle k) :=
  countsThrough_require (b := fun s => !s.serBusy) (fun _ => rfl) hk

theorem setWord_countEdge (p : Plane) (r : Nat) (v : Word) (s : State) :
    s.countEdge.setWord p r v = (s.setWord p r v).countEdge := by
  cases p <;> rfl

theorem word_countEdge (p : Plane) (r : Nat) (s : State) : s.countEdge.word p r = s.word p r := by
  cases p <;> rfl

theorem countsThrough_modWord (p : Plane) {r : State → Nat} {f : State → Word → Word}
    (hr : ∀ s : State, r s.countEdge = r s) (hf : ∀ s : State, f s.countEdge = f s) :
    CountsThrough (fun s => modWord p (r s) (f s) s) := by
  intro s
  show modWord p (r s.countEdge) (f s.countEdge) s.countEdge
    = andThen (modWord p (r s) (f s) s) (always State.countEdge)
  rw [hr, hf]
  by_cases h : r s ≤ 24
  · rw [modWord_of h, modWord_of h, word_countEdge, setWord_countEdge]
    rfl
  · simp [modWord, memRead, h]

/-! ## The scan's micro-operations and SERSHIFT -/

theorem countsThrough_blankStep : CountsThrough blankStep :=
  countsThrough_running (countsThrough_atUop _ (countsThrough_always fun _ => rfl))

theorem countsThrough_txStep (k : Nat) : CountsThrough (txStep k) := by
  refine countsThrough_running (countsThrough_atUop _ (countsThrough_whenIdle fun s => ?_))
  by_cases h : s.row.toNat ≤ 24
  · have hword : s.countEdge.word (planeOf s.field) s.row.toNat = s.word (planeOf s.field) s.row.toNat :=
      word_countEdge ..
    simp only [memRead, State.countEdge_field, State.countEdge_row, h, if_true, hword]
    rfl
  · simp only [memRead, State.countEdge_row, h, if_false]
    rfl

theorem countsThrough_waitStep (k : Nat) : CountsThrough (waitStep k) := by
  refine countsThrough_running (countsThrough_atUop _ fun s => ?_)
  by_cases hb : s.serBusy = true
  · simp only [State.countEdge_serBusy, hb, if_true, andThen_next, always_eq]
  · simp only [State.countEdge_serBusy, hb]
    rfl

theorem countsThrough_latchSetStep : CountsThrough latchSetStep :=
  countsThrough_running (countsThrough_atUop _ (countsThrough_whenIdle (countsThrough_always fun _ => rfl)))

theorem countsThrough_latchClrStep : CountsThrough latchClrStep :=
  countsThrough_running (countsThrough_atUop _
    (countsThrough_require (b := fun s => s.latch) (fun _ => rfl) (countsThrough_always fun _ => rfl)))

theorem countsThrough_selRowStep : CountsThrough selRowStep := by
  have hselect : CountsThrough (fun s => selectCode (rowCode s.row.toNat) s) :=
    countsThrough_require (b := fun s => s.rowsel == 0x00#8) (k := fun s => .next (s.writeRowsel (rowCode s.row.toNat)))
      (fun _ => rfl) fun _ => rfl
  exact countsThrough_running (countsThrough_atUop _ (countsThrough_require (b := fun s => decide (s.row.toNat ≤ 24))
    (fun _ => rfl) (countsThrough_andThen hselect (countsThrough_always fun _ => rfl))))

theorem countsThrough_settleStep : CountsThrough settleStep :=
  countsThrough_running (countsThrough_atUop _ (countsThrough_require (b := fun s => decide (s.row.toNat ≤ 24))
    (fun _ => rfl) (countsThrough_always fun _ => rfl)))

theorem countsThrough_execSershift : CountsThrough execSershift :=
  countsThrough_running (countsThrough_require (b := fun s => s.serBusy && !s.frozen) (fun _ => rfl)
    (countsThrough_always fun _ => rfl))

/-! ## ATICK -/

theorem afterDraw_countEdge (s : State) : s.countEdge.afterDraw = s.afterDraw.countEdge := by
  cases hd : s.draws <;> simp [State.afterDraw, State.countEdge, hd]

theorem drawn_countEdge (s : State) : s.countEdge.drawn = s.drawn := rfl

theorem plane_countEdge (p : Plane) (s : State) : s.countEdge.plane p = s.plane p := by
  cases p <;> rfl

theorem setPlane_countEdge (p : Plane) (b : Buffer) (s : State) :
    s.countEdge.setPlane p b = (s.setPlane p b).countEdge := by
  cases p <;> rfl

theorem countsThrough_eraseRow (i : Nat) : CountsThrough (eraseRow i) :=
  countsThrough_andThen (countsThrough_modWord .dim (fun _ => rfl) fun _ => rfl)
    (countsThrough_modWord .bright (fun _ => rfl) fun _ => rfl)

theorem countsThrough_drawRow (i : Nat) : CountsThrough (drawRow i) :=
  countsThrough_andThen (countsThrough_modWord .dim (fun _ => rfl) fun _ => rfl)
    (countsThrough_modWord .bright (fun _ => rfl) fun _ => rfl)

theorem countsThrough_whenPosOk {k : State → Result} (hk : CountsThrough k) : CountsThrough (whenPosOk k) :=
  countsThrough_require (b := fun s => posOk s.ballX && posOk s.ballY) (fun _ => rfl) hk

theorem countsThrough_eraseBlock : CountsThrough eraseBlock :=
  countsThrough_whenPosOk (countsThrough_runAll (by simp [countsThrough_eraseRow]))

theorem countsThrough_drawGlyph : CountsThrough drawGlyph :=
  countsThrough_whenPosOk (countsThrough_runAll (by simp [countsThrough_drawRow]))

theorem bounceX_countEdge (s : State) : s.countEdge.bounceX = s.bounceX.countEdge := by
  simp only [State.bounceX, State.countEdge_ballX, State.countEdge_ballDx, afterDraw_countEdge, drawn_countEdge]
  split <;> rfl

theorem bounceY_countEdge (s : State) : s.countEdge.bounceY = s.bounceY.countEdge := by
  simp only [State.bounceY, State.countEdge_ballY, State.countEdge_ballDy, afterDraw_countEdge, drawn_countEdge]
  split <;> rfl

theorem countsThrough_bounceBall : CountsThrough bounceBall :=
  countsThrough_require (b := ballOk) (fun _ => rfl)
    (countsThrough_always fun s => by rw [bounceX_countEdge, bounceY_countEdge])

theorem countsThrough_moveBall : CountsThrough moveBall :=
  countsThrough_require (b := ballOk) (fun _ => rfl) (countsThrough_always fun _ => rfl)

theorem countsThrough_paceBall : CountsThrough paceBall := by
  intro s
  have hmoved := countsThrough_runAll (fs := [bounceBall, moveBall])
    (by simp [countsThrough_bounceBall, countsThrough_moveBall]) { s with ballPace := 0#4 }
  by_cases hp : s.ballPace.toNat + 1 = Config.ballPaceDiv
  · have hbefore : paceBall s = runAll [bounceBall, moveBall] { s with ballPace := 0#4 } := if_pos hp
    rw [hbefore, ← hmoved]
    exact if_pos hp
  · have hbefore : paceBall s = .next { s with ballPace := s.ballPace + 1#4 } := if_neg hp
    rw [hbefore]
    exact if_neg hp

theorem countsThrough_ballCall : CountsThrough ballCall :=
  countsThrough_require (b := fun s => decide (s.ballPace.toNat ≤ 9)) (fun _ => rfl)
    (countsThrough_runAll (by simp [countsThrough_eraseBlock, countsThrough_paceBall, countsThrough_drawGlyph]))

theorem countsThrough_toggleBit (p : Plane) : CountsThrough (toggleBit p) := by
  intro s
  rw [toggleBit_next, toggleBit_next]
  simp only [State.toggled, afterDraw_countEdge, drawn_countEdge, plane_countEdge, setPlane_countEdge]
  rfl

theorem countsThrough_runGenerator : CountsThrough runGenerator := by
  have hnoise : CountsThrough noiseCall := countsThrough_runAll (by simp [countsThrough_toggleBit])
  intro s
  simp only [runGenerator, State.countEdge_gen]
  split
  · exact countsThrough_ballCall s
  · exact hnoise s

theorem countCall_countEdge (s : State) : s.countEdge.countCall = s.countCall.countEdge := by
  by_cases h : budget s.gen ≤ s.frameCtr.toNat + 1
  · rw [countCall_atBudget h, countCall_atBudget (s := s.countEdge) h]
    rfl
  · rw [countCall_below (Nat.lt_of_not_le h), countCall_below (s := s.countEdge) (Nat.lt_of_not_le h)]
    rfl

theorem countsThrough_atickStep : CountsThrough atickStep := by
  have hcount : CountsThrough (always fun t => t.countCall.setSeq 0#4 0#2 0#5) :=
    countsThrough_always fun s => by rw [countCall_countEdge]; rfl
  exact countsThrough_running (countsThrough_require (b := fun s => s.uop == 13#4 && s.field == 0#2 && s.row == 0#5)
    (fun _ => rfl) (countsThrough_require (b := fun s => decide (s.frameCtr.toNat < budget s.gen)) (fun _ => rfl)
      (countsThrough_runAll (by simp [countsThrough_runGenerator, hcount]))))

/-! ## The edge -/

/-- The next edge is one that is only counted. -/
def EdgeReady (s : State) : Prop :=
  s.halted = false ∧ s.caller ≠ .handler ∧ s.pressCnt + 1 < s.cfg.pressEdgeThreshold

theorem exec_btnedge_of_ready {s : State} (h : EdgeReady s) : exec .btnedge s = .next s.countEdge := by
  obtain ⟨hh, hc, hp⟩ := h
  exact btnedge_eq_next.2 ⟨hh, hc, by omega, (takeEdge_below (by omega)).symm⟩

theorem EdgeKept.ready {s t : State} (h : EdgeKept s t) (hs : EdgeReady s) : EdgeReady t := by
  obtain ⟨hh, hc, hp, hcfg⟩ := h
  rwa [EdgeReady, hh, hc, hp, hcfg]

/-- No micro-operation and no SERSHIFT reads PRESS_CNT. -/
theorem countsThrough_exec_uop {i : Instr} (hi : i ∈ uops ++ [.sershift]) : CountsThrough (exec i) := by
  simp only [uops, List.cons_append, List.nil_append, List.mem_cons, List.not_mem_nil, or_false] at hi
  obtain rfl | rfl | rfl | rfl | rfl | rfl | rfl | rfl | rfl | rfl | rfl | rfl | rfl | rfl | rfl := hi
  · exact countsThrough_blankStep
  · exact countsThrough_txStep 0
  · exact countsThrough_waitStep 0
  · exact countsThrough_txStep 1
  · exact countsThrough_waitStep 1
  · exact countsThrough_txStep 2
  · exact countsThrough_waitStep 2
  · exact countsThrough_txStep 3
  · exact countsThrough_waitStep 3
  · exact countsThrough_latchSetStep
  · exact countsThrough_latchClrStep
  · exact countsThrough_selRowStep
  · exact countsThrough_settleStep
  · exact countsThrough_atickStep
  · exact countsThrough_execSershift

/-- Settles O54: a halted block stops either way; a running one counts the edge before or after the same change. -/
theorem edgeCommutesWithMicroOperations : Obligations.EdgeCommutesWithMicroOperations := by
  intro i s hi hc hp
  cases hh : s.halted with
  | true =>
    have hne : ∀ j ∈ uops ++ [Instr.sershift], j ≠ .reset ∧ isReserved j = false := by decide
    have hblocked := (haltedBlocksEveryInstruction s hh).1
    rw [hblocked i (hne i hi).1 (hne i hi).2, hblocked .btnedge nofun rfl]
    rfl
  | false =>
    have hready : EdgeReady s := ⟨hh, hc, hp⟩
    rw [exec_btnedge_of_ready hready, andThen_next, countsThrough_exec_uop hi s]
    exact andThen_congr fun t ht => exec_btnedge_of_ready ((exec_uop_bookKept hi ht).1.ready hready)

end Sys2Proof.Machine
end

section
/-! PROOFS. The scan whose bytes need not all complete, and FRAME (R142, R200, R227): a byte that never completes holds a
row step, and with it the scan and the frame, in that byte's WAITk. -/

open Sys2Proof.Claims

namespace Sys2Proof.Machine

/-- The operations of a range up to one of them, that one, and the rest. -/
theorem range_eq_append_cons {n m : Nat} (h : n < m) : ∃ l, List.range m = List.range n ++ n :: l := by
  obtain ⟨k, rfl⟩ := Nat.exists_eq_add_of_lt h
  exact ⟨_, by rw [Nat.add_assoc, List.range_add, List.range_succ_eq_map, List.map_cons]; rfl⟩

theorem completes_zero (s : State) : s.completes 0 = true := by
  unfold State.completes
  split <;> simp

/-! ## A row step held at a byte (R111, R138, R227) -/

/-- TXk with a byte that never completes, and WAITk, which holds. -/
theorem byteStep_frozen (k : Nat) {s : State} (hh : s.halted = false) (hb : s.serBusy = false)
    (hr : s.row.toNat ≤ 24) (hf : s.frozen = true) (hu : s.uop = BitVec.ofNat 4 (2 * k + 1)) :
    byteStep k s = .next ((s.startByte (byteAt k (currentWord s))).setUop (BitVec.ofNat 4 (2 * k + 2))) := by
  have hsent (v : Byte) (u : BitVec 4) : ((s.startByte v).setUop u).tryShift = (s.startByte v).setUop u :=
    tryShift_frozen ((frozen_congr rfl).trans hf)
  rw [byteStep, runAll_cons, txStep_eq_next.2 ⟨hh, hu, hb, hr, rfl⟩, andThen_next, runAll_cons, always_eq,
    andThen_next, hsent, word_planeOf_field, runAll_cons]
  exact (andThen_next_right _).trans (waitStep_eq_next.2 ⟨hh, rfl, rfl⟩)

theorem startByte_sentBytes_setUop (bs : List Byte) (b : Byte) (u v : BitVec 4) (s : State) :
    (((s.sentBytes bs).setUop u).startByte b).setUop v = ((s.sentBytes bs).startByte b).setUop v := rfl

theorem currentWord_sentBytes_setUop (bs : List Byte) (u : BitVec 4) (s : State) :
    currentWord ((s.sentBytes bs).setUop u) = currentWord s := rfl

/-- The first `k` bytes of the current word, all of which complete. -/
theorem runHeld_range_byteStep {k : Nat} {s : State} (hh : s.halted = false) (hb : s.serBusy = false)
    (hr : s.row.toNat ≤ 24) (hc : s.completes k = true) :
    runHeld ((List.range k).map byteStep) (s.setUop 1#4)
      = .next ((s.sentBytes (firstBytes k (currentWord s))).setUop (BitVec.ofNat 4 (2 * k + 1))) := by
  induction k with
  | zero => exact congrArg (fun t : State => Host.Outcome.next (t.setUop 1#4)) (sentBytes_nil s).symm
  | succ k ih =>
    have hidle : ((s.sentBytes (firstBytes k (currentWord s))).setUop (BitVec.ofNat 4 (2 * k + 1))).serBusy = false := hb
    rw [List.range_succ, List.map_append, runHeld_append, ih (completes_mono hc (Nat.le_succ k)), andThen_next,
      List.map_singleton, firstBytes_succ]
    exact runHeld_cons_next hidle (byteStep_sentBytes k _ hh hb hr (by rwa [length_firstBytes]))

/-- The bytes of a row step of which only `n` below four complete; the rest of the step is left undone. -/
theorem runHeld_bytes_held {n : Nat} (fs : List (State → Result)) {s : State} (hh : s.halted = false)
    (hb : s.serBusy = false) (hr : s.row.toNat ≤ 24) (hn : n < 4) (hl : s.serialLeft = some n) :
    runHeld ((List.range 4).map byteStep ++ fs) (s.setUop 1#4)
      = .next ((heldAtByte n (currentWord s) s).setUop (BitVec.ofNat 4 (2 * n + 2))) := by
  have hc : s.completes n = true := by simp [State.completes, hl]
  have hf : (s.sentBytes (firstBytes n (currentWord s))).frozen = true := by simp [State.frozen, State.sentBytes, hl]
  obtain ⟨l, hsplit⟩ := range_eq_append_cons hn
  have hbyte := byteStep_frozen n
    (s := (s.sentBytes (firstBytes n (currentWord s))).setUop (BitVec.ofNat 4 (2 * n + 1))) hh hb hr hf rfl
  rw [hsplit, List.map_append, List.append_assoc, runHeld_append, runHeld_range_byteStep hh hb hr hc, andThen_next,
    List.map_cons, List.cons_append]
  rw [startByte_sentBytes_setUop, currentWord_sentBytes_setUop, startByte_sentBytes_eq_heldAtByte hn hl] at hbyte
  have hbusy : ((heldAtByte n (currentWord s) s).setUop (BitVec.ofNat 4 (2 * n + 2))).serBusy = true := rfl
  refine (runHeld_cons_next ?_ hbyte).trans (runHeld_busy _ hbusy)
  exact hb

/-- The row step held at byte `n`. -/
theorem rowStep_held {n : Nat} {f : BitVec 2} {r : BitVec 5} {s : State} (h : ReadyAt f r 0 s) (hr : r.toNat ≤ 24)
    (hn : n < 4) (hl : s.serialLeft = some n) :
    rowStep f r s = .next (heldAtByte n (currentWord s)
      { s with rowsel := 0x00#8, uop := BitVec.ofNat 4 (2 * n + 2), trace := .sel 0x00#8 :: s.trace }) := by
  obtain ⟨hh, hb, -, hu, rfl, rfl⟩ := h
  have hblank : blankStep s = .next ((s.writeRowsel 0x00#8).setUop 1#4) := blankStep_eq_next.2 ⟨hh, hu, rfl⟩
  rw [rowStep, running_of hh, require_of (decide_eq_true hr), atSeq_of hu rfl rfl, whenIdle_of hb]
  exact (runHeld_cons_next hb hblank).trans
    (runHeld_bytes_held [latchSetStep, latchClrStep, selRowStep, settleStep] (s := s.writeRowsel 0x00#8) hh hb hr hn hl)

/-! ## The scan row by row (R142) -/

/-- The field of the scan's row step `q`. -/
def fieldAt (q : Nat) : BitVec 2 := BitVec.ofNat 2 (q / 25)

/-- The row of the scan's row step `q`. -/
def rowAt (q : Nat) : BitVec 5 := BitVec.ofNat 5 (q % 25)

/-- The scan's row step `q` of its hundred. -/
def scanStep (q : Nat) : State → Result := rowStep (fieldAt q) (rowAt q)

theorem frameScan_parts :
    fieldSteps 0#2 ++ fieldSteps 1#2 ++ fieldSteps 2#2 ++ fieldSteps 3#2 = (List.range 100).map scanStep := rfl

theorem toNat_fieldAt {q : Nat} (hq : q < 100) : (fieldAt q).toNat = q / 25 := by
  rw [fieldAt, BitVec.toNat_ofNat]
  omega

theorem toNat_rowAt (q : Nat) : (rowAt q).toNat = q % 25 := by
  rw [rowAt, BitVec.toNat_ofNat]
  omega

theorem advance_at {q : Nat} (hq : q < 99) : advance (fieldAt q) (rowAt q) = (0#4, fieldAt (q + 1), rowAt (q + 1)) := by
  have key : ∀ q < 99, advance (fieldAt q) (rowAt q) = (0#4, fieldAt (q + 1), rowAt (q + 1)) := by decide
  exact key q hq

/-- A scan from `s` stands before its row step `q`, with `m` bytes more to complete. -/
structure ScannedTo (q m : Nat) (s t : State) : Prop where
  ready : ReadyAt (fieldAt q) (rowAt q) m t
  outputs : OutputsOnly s t
  left : t.serialLeft = leftAfter (4 * q) s
  press : t.pressCnt = s.pressCnt
  trace : t.trace.length = s.trace.length + 9 * q

theorem ScannedTo.step {q m : Nat} {s t : State} (hq : q < 99) (h : ScannedTo q (4 + m) s t) :
    ∃ u, scanStep q t = .next u ∧ ScannedTo (q + 1) m s u := by
  have hrow : (rowAt q).toNat ≤ 24 := by rw [toNat_rowAt]; omega
  have hstep := rowStep_of { h.ready with completes := completes_mono h.ready.completes (Nat.le_add_right 4 m) } hrow
  refine ⟨_, hstep, readyAt_scanned h.ready (advance_at hq), h.outputs.trans (writesOutputs_rowStep _ _ _ _ hstep), ?_,
    h.press, ?_⟩
  · simp [State.scanned, leftAfter, h.left, Function.comp_def, Nat.sub_sub, Nat.mul_succ]
  · simp [State.scanned, stepEvents, h.trace]
    omega

/-- The first `q` row steps of a scan, all of whose bytes complete. -/
theorem runHeld_range_scanStep {q m : Nat} {s : State} (hq : q < 100) (h : ReadyAt 0#2 0#5 (4 * q + m) s) :
    ∃ t, runHeld ((List.range q).map scanStep) s = .next t ∧ ScannedTo q m s t := by
  induction q generalizing m with
  | zero =>
    rw [Nat.mul_zero, Nat.zero_add] at h
    exact ⟨s, rfl, h, .refl s, by simp [leftAfter], rfl, rfl⟩
  | succ q ih =>
    obtain ⟨t, ht, hto⟩ := ih (m := 4 + m) (by omega) (by rwa [← Nat.add_assoc])
    obtain ⟨u, hu, hnext⟩ := hto.step (by omega)
    refine ⟨u, ?_, hnext⟩
    rw [List.range_succ, List.map_append, runHeld_append, ht, andThen_next, List.map_singleton,
      runHeld_cons_next hto.ready.idle hu, runHeld_nil]

/-- The scan held at byte `n` of its four hundred: byte `n % 4` of the row step `n / 4`. -/
theorem frameScan_held {n : Nat} {s : State} (h : ReadyAt 0#2 0#5 0 s) (hn : n < 400) (hl : s.serialLeft = some n) :
    ∃ t, ScannedTo (n / 4) (n % 4) s t ∧ frameScan s = .next (heldAtByte (n % 4) (currentWord t)
      { t with rowsel := 0x00#8, uop := BitVec.ofNat 4 (2 * (n % 4) + 2), trace := .sel 0x00#8 :: t.trace }) := by
  have hc : s.completes (4 * (n / 4) + n % 4) = true := by
    rw [Nat.div_add_mod]
    simp [State.completes, hl]
  obtain ⟨t, ht, hto⟩ := runHeld_range_scanStep (by omega) { h with completes := hc }
  have hleft : t.serialLeft = some (n % 4) := by
    have hrest : n - 4 * (n / 4) = n % 4 := by omega
    rw [hto.left, leftAfter, hl, Option.map_some, hrest]
  have hrow : (rowAt (n / 4)).toNat ≤ 24 := by rw [toNat_rowAt]; omega
  have hheld := rowStep_held { hto.ready with completes := completes_mono hto.ready.completes (Nat.zero_le _) } hrow
    (Nat.mod_lt n (by decide)) hleft
  obtain ⟨l, hsplit⟩ := range_eq_append_cons (show n / 4 < 100 by omega)
  refine ⟨t, hto, ?_⟩
  rw [frameScan, running_of h.running, atSeq_of h.uop h.field h.row, whenIdle_of h.idle, frameScan_parts, hsplit,
    List.map_append, runHeld_append, ht, andThen_next, List.map_cons]
  exact (runHeld_cons_next hto.ready.idle hheld).trans (runHeld_busy _ rfl)

/-- What the hang looks like, and that the scan so far wrote no buffer and no animation record. -/
theorem nextWith_frameScan_held {n : Nat} {s : State} (h : ReadyAt 0#2 0#5 0 s) (hn : n < 400)
    (hl : s.serialLeft = some n) :
    NextWith (frameScan s) (fun t => HeldScan n s t ∧ AnimationKept s t ∧ t.pressCnt = s.pressCnt) := by
  obtain ⟨t, hto, hscan⟩ := frameScan_held h hn hl
  refine ⟨_, hscan, ⟨rfl, rfl, hto.ready.running, rfl, ?_, ?_, ?_, rfl, ?_⟩,
    (writesOutputs_frameScan s _ hscan).animationKept, hto.press⟩
  · simp only [heldAtByte, BitVec.toNat_ofNat]
    omega
  · show t.field.toNat = n / 100
    rw [hto.ready.field, toNat_fieldAt (by omega)]
    omega
  · show t.row.toNat = n / 4 % 25
    rw [hto.ready.row, toNat_rowAt]
  · simp [heldAtByte, hto.trace]
    omega

/-! ## FRAME (R200) -/

/-- ATICK ends where RFRAME begins, with the same bytes to complete. -/
theorem atickStep_readyAt {n : Nat} {s : State} (hh : s.halted = false) (hb : s.serBusy = false) (hu : s.uop = 13#4)
    (hf : s.field = 0#2) (hr : s.row = 0#5) (hctr : counterReady s) (hball : ballReady s) (hc : s.completes n = true) :
    ∃ t, atickStep s = .next t ∧ OutputsKept s t ∧ ReadyAt 0#2 0#5 n t ∧ counterReady t ∧ ballReady t := by
  obtain ⟨t, -, hstep, -, hcounter, hready⟩ := atickStep_completes hh hu hf hr hctr hball
  have hkept := (engineOnly_atickStep hstep).outputsKept
  have ⟨_, _, _, hbusy, hhalted, _, _, _, _, _, hleft, _⟩ := hkept
  exact ⟨_, hstep, hkept, ⟨hhalted.trans hh, hbusy.trans hb, (completes_congr hleft).trans hc, rfl, rfl, rfl⟩, hcounter,
    hready⟩

theorem OutputsOnly.counterReady {s t : State} (h : OutputsOnly s t) (hs : counterReady s) : counterReady t := by
  rw [h]; exact hs

theorem OutputsOnly.ballReady {s t : State} (h : OutputsOnly s t) (hs : ballReady s) : ballReady t := by
  rw [h]; exact hs

/-- Settles O35: FRAME is ATICK and then RFRAME, whose hundred row steps complete or are held at a byte. -/
theorem frameIsAtickThenScan : Obligations.FrameIsAtickThenScan := by
  refine ⟨fun s hh hb hu hf hr hctr hball => ⟨frameStep_eq s, fun hc => ?_, fun n hn hl => ?_⟩,
    fun n s hh hb hu hf hr hn hl => nextWith_frameScan_held ⟨hh, hb, completes_zero s, hu, hf, hr⟩ hn hl,
    fun n f r s hh hb hr hu hf hrow hn hl => rowStep_held ⟨hh, hb, completes_zero s, hu, hf, hrow⟩ hr hn hl⟩
  · obtain ⟨t, ht, hkept, hready, hcounter, hballt⟩ := atickStep_readyAt hh hb hu hf hr hctr hball hc
    have hscan := frameScan_of hready
    have hrecord := writesOutputs_frameScan t _ hscan
    obtain ⟨-, -, -, -, -, -, -, -, -, -, -, -, -, htrace⟩ := hkept
    obtain ⟨hevents, -⟩ := scanEventCounts t
    refine ⟨_, (frameStep_eq s).trans ((congrArg (andThen · frameScan) ht).trans hscan), rfl, rfl, rfl, rfl, hready.idle,
      hready.running, rfl, ?_, hrecord.counterReady hcounter, hrecord.ballReady hballt⟩
    show (scanEvents t ++ t.trace).length = s.trace.length + 900
    rw [List.length_append, hevents, htrace, Nat.add_comm]
  · obtain ⟨t, ht, hkept, hready, -, -⟩ := atickStep_readyAt (n := 0) hh hb hu hf hr hctr hball (completes_zero s)
    obtain ⟨-, -, -, -, -, -, -, -, -, -, hleft, -, -, htrace⟩ := hkept
    obtain ⟨u, hu', hheld, -⟩ := nextWith_frameScan_held hready hn (hleft.trans hl)
    refine ⟨u, (frameStep_eq s).trans ((congrArg (andThen · frameScan) ht).trans hu'), ?_⟩
    rwa [HeldScan, htrace] at hheld

end Sys2Proof.Machine
end

section
/-! PROOFS. RUN (R201): its first ATICK, and that the steps that follow, with no edge to come and every byte completing, are
the micro-operations and completions of the scan, in its order. -/

open Sys2Proof.Claims

namespace Sys2Proof.Machine

/-! ## A block left to itself -/

/-- Nothing is written, no edge is to come, every byte completes, and the registers are in range. -/
structure FreeRun (s : State) : Prop where
  written : s.written = []
  edges : s.edges = []
  serial : s.serialLeft = none
  ball : ballReady s
  counter : counterReady s
  scanning : Scanning s

theorem stateDefect_eq_none_iff {s : State} :
    stateDefect s = none ↔ rowOf s.rowsel ≠ .reserved ∧ registersOk s = true := by
  unfold stateDefect
  split <;> simp [*]

/-- The codes that are not reserved (R84, R86). -/
theorem rowOf_ne_reserved_iff {v : Byte} :
    rowOf v ≠ .reserved ↔ v = 0x00#8 ∨ ∃ r ≤ 24, v = rowCode r := by
  have hnone : ∀ v : Byte, rowOf v = .none → v = 0x00#8 := by decide
  constructor
  · intro h
    cases hv : rowOf v with
    | none => exact .inl (hnone v hv)
    | row r => exact .inr ⟨r, (rowOf_eq_row_iff v r).1 hv⟩
    | reserved => exact absurd hv h
  · rintro (rfl | ⟨r, hr, rfl⟩)
    · rw [rowOf_zero]; nofun
    · rw [rowOf_rowCode hr]; nofun

/-- A block between two frames with no unreachable value stands at a reachable position of the scan. -/
theorem scanning_of_stateDefect {s : State} (hh : s.halted = false) (hb : s.serBusy = false) (hu : s.uop = 13#4)
    (hc : s.caller ≠ .handler) (hd : stateDefect s = none) : Scanning s := by
  obtain ⟨hcode, hregs⟩ := stateDefect_eq_none_iff.1 hd
  obtain ⟨-, -, -, huop, hrow, hatick, hlatch, -, hpress⟩ := registersOk_iff.1 hregs
  have hdark : s.latch = false := by
    cases hl : s.latch with
    | false => rfl
    | true => exact absurd (hu.symm.trans (hlatch hl)) (by decide)
  refine ⟨⟨huop, hrow, hatick⟩, hh, hc, ?_, by rw [hdark, hu]; rfl, fun hb' => absurd (hb.symm.trans hb') nofun,
    rowOf_ne_reserved_iff.1 hcode, by rw [hu]; simp, by rw [hu]; nofun⟩
  obtain h | h | h := hpress
  · exact absurd (hh.symm.trans h) nofun
  · exact absurd h hc
  · exact h

theorem FreeRun.stateDefect {s : State} (h : FreeRun s) : stateDefect s = none := by
  have hscan := h.scanning.scan
  have hlatch : s.latch = true → s.uop = 10#4 := fun hl => by simpa [hl] using hscan.latch
  exact stateDefect_eq_none_iff.2 ⟨rowOf_ne_reserved_iff.2 hscan.code, registersOk_iff.2
    ⟨h.ball.1, h.ball.2, h.counter, h.scanning.seq.uop, h.scanning.seq.row, h.scanning.seq.atick, hlatch,
      fun hb => .inl (hscan.busy hb), .inr (.inr hscan.press)⟩⟩

theorem FreeRun.frozen {s : State} (h : FreeRun s) : s.frozen = false := by rw [State.frozen, h.serial]; rfl

/-- The step performs the agent's instruction as the state stands. -/
theorem FreeRun.step_eq {s : State} {i : Instr} (h : FreeRun s) (hi : AgentOf i s) : step s = exec i s := by
  have hscan := h.scanning.scan
  have hdue : ¬ edgeDue s := by
    rintro ⟨rest, he⟩
    exact absurd (h.edges.symm.trans he) nofun
  have hkept : s.setEdges (nearer s.edges) = s := by
    rw [h.edges, nearer, ← h.edges]
    rfl
  obtain ⟨hb, hf, rfl⟩ | ⟨hb, hi⟩ := hi
  · rw [step_sershift h.written h.stateDefect hscan.running hscan.caller hdue hb hf, hkept]
  · rw [step_uop h.written h.stateDefect hscan.running hscan.caller hdue hb hi, hkept]

/-! ## Walks: an operation as so many steps -/

/-- `n` steps lead from `s` to `t`, a block again left to itself. -/
def Leads (n : Nat) (s t : State) : Prop := steps n s = .next t ∧ FreeRun t

theorem steps_add (m n : Nat) (s : State) : steps (m + n) s = andThen (steps m s) (steps n) := by
  induction m generalizing s with
  | zero => rw [Nat.zero_add]; rfl
  | succ m ih =>
    rw [Nat.succ_add, steps, steps, andThen_assoc]
    exact congrArg _ (funext ih)

theorem Leads.trans {m n : Nat} {s t u : State} (h : Leads m s t) (k : Leads n t u) : Leads (m + n) s u :=
  ⟨by rw [steps_add, h.1, andThen_next, k.1], k.2⟩

/-- One step of the scan. -/
theorem FreeRun.leads_agent {s t : State} {i : Instr} (h : FreeRun s) (hi : AgentOf i s) (hne : i ≠ .atick)
    (ht : exec i s = .next t) : Leads 1 s t := by
  have houtputs : OutputsOnly s t := exec_writesOutputs (not_writesAnimation_of_ne_atick hi.mem_uops hne) s t ht
  obtain ⟨-, -, hserial⟩ := exec_uop_bookKept hi.mem_uops ht
  refine ⟨?_, by rw [houtputs]; exact h.written, by rw [houtputs]; exact h.edges, hserial h.serial,
    houtputs.ballReady h.ball, houtputs.counterReady h.counter, h.scanning.agent hi ht⟩
  rw [steps, h.step_eq hi, ht, andThen_next, steps]

/-- The operation, where no byte holds it, is `n` steps of a block left to itself. -/
def Walks (n : Nat) (f : State → Result) : Prop :=
  ∀ s t, FreeRun s → s.serBusy = false → f s = .next t → t.serBusy = false → Leads n s t

/-- A micro-operation, which is performed at its own UOP alone, is one step. -/
theorem walks_atUop {i : Instr} {u : BitVec 4} {k : State → Result} (hi : uopInstr u = some i) (hne : i ≠ .atick)
    (hexec : exec i = running (atUop u k)) : Walks 1 (running (atUop u k)) := by
  intro s t h hb ht _
  obtain ⟨hu, -⟩ := atUop_eq_next.1 (running_eq_next.1 ht).2
  exact h.leads_agent (.inr ⟨hb, hu ▸ hi⟩) hne (hexec ▸ ht)

theorem uopInstr_byte {k : Nat} (hk : k < 4) :
    (uopInstr (BitVec.ofNat 4 (2 * k + 1)) = some (txOf k) ∧ txOf k ≠ .atick)
      ∧ uopInstr (BitVec.ofNat 4 (2 * k + 2)) = some (waitOf k) ∧ waitOf k ≠ .atick := by
  have key : ∀ k < 4, (uopInstr (BitVec.ofNat 4 (2 * k + 1)) = some (txOf k) ∧ txOf k ≠ .atick)
      ∧ uopInstr (BitVec.ofNat 4 (2 * k + 2)) = some (waitOf k) ∧ waitOf k ≠ .atick := by decide
  exact key k hk

/-- A byte is three steps: TXk, SERSHIFT, WAITk. -/
theorem walks_byteStep {k : Nat} (hk : k < 4) : Walks 3 (byteStep k) := by
  intro s t h hb ht _
  obtain ⟨⟨htx, htxne⟩, hwait, hwaitne⟩ := uopInstr_byte hk
  obtain ⟨u, hu, ht⟩ := andThen_eq_next.1 ht
  have hsent : Leads 1 s u := by
    obtain ⟨-, hat, -⟩ := txStep_eq_next.1 hu
    exact h.leads_agent (.inr ⟨hb, hat ▸ htx⟩) htxne ((exec_txOf hk s).trans hu)
  obtain ⟨hh, -, -, -, hbusy⟩ := txStep_eq_next.1 hu
  have hfree := hsent.2
  have hshift : exec .sershift u = .next u.shiftByte :=
    sershift_eq_next.2 ⟨by rw [hbusy]; exact hh, by rw [hbusy]; rfl, hfree.frozen, rfl⟩
  have hdone : Leads 1 u u.shiftByte :=
    hfree.leads_agent (.inl ⟨by rw [hbusy]; rfl, hfree.frozen, rfl⟩) nofun hshift
  rw [runAll_cons, always_eq, andThen_next, tryShift_of hfree.frozen, runAll_cons] at ht
  have hlast : waitStep k u.shiftByte = .next t := (andThen_next_right _).symm.trans ht
  have hend : Leads 1 u.shiftByte t := by
    obtain ⟨-, hat, -⟩ := waitStep_eq_next.1 hlast
    exact hdone.2.leads_agent (.inr ⟨rfl, hat ▸ hwait⟩) hwaitne ((exec_waitOf hk _).trans hlast)
  exact (hsent.trans hdone).trans hend

theorem walks_runHeld_nil : Walks 0 (runHeld []) := by
  intro s t h _ ht _
  obtain rfl := next_eq_next.1 ht
  exact ⟨rfl, h⟩

theorem walks_runHeld_cons {m n : Nat} {f : State → Result} {fs : List (State → Result)} (hf : Walks m f)
    (hfs : Walks n (runHeld fs)) : Walks (m + n) (runHeld (f :: fs)) := by
  intro s t h hb ht hbt
  rw [runHeld_cons f fs hb] at ht
  obtain ⟨u, hu, ht⟩ := andThen_eq_next.1 ht
  have hbu : u.serBusy = false := by
    cases hbusy : u.serBusy with
    | false => rfl
    | true =>
      rw [runHeld_busy fs hbusy, next_eq_next] at ht
      rw [ht, hbusy] at hbt
      cases hbt
  have hfirst := hf s u h hb hu hbu
  exact hfirst.trans (hfs u t hfirst.2 hbu ht hbt)

theorem walks_runHeld_map {n : Nat} {α : Type} {g : α → State → Result} (h : ∀ a, Walks n (g a)) (l : List α) :
    Walks (n * l.length) (runHeld (l.map g)) := by
  induction l with
  | nil => exact walks_runHeld_nil
  | cons a l ih =>
    rw [List.length_cons, Nat.mul_succ, Nat.add_comm]
    exact walks_runHeld_cons (h a) ih

/-- A row's bytes are three steps each, its other five micro-operations one each. -/
theorem walks_stepParts : Walks 17 (runHeld stepParts) := by
  have hblank : Walks 1 blankStep := walks_atUop (i := .blank) rfl nofun rfl
  have hset : Walks 1 latchSetStep := walks_atUop (i := .latchset) rfl nofun rfl
  have hclr : Walks 1 latchClrStep := walks_atUop (i := .latchclr) rfl nofun rfl
  have hsel : Walks 1 selRowStep := walks_atUop (i := .selrow) rfl nofun rfl
  have hsettle : Walks 1 settleStep := walks_atUop (i := .settle) rfl nofun rfl
  have hbyte (k : Nat) (hk : k < 4) : Walks 3 (byteStep k) := walks_byteStep hk
  have htail := walks_runHeld_cons hset <| walks_runHeld_cons hclr <| walks_runHeld_cons hsel <|
    walks_runHeld_cons hsettle walks_runHeld_nil
  exact walks_runHeld_cons hblank <| walks_runHeld_cons (hbyte 0 (by decide)) <|
    walks_runHeld_cons (hbyte 1 (by decide)) <| walks_runHeld_cons (hbyte 2 (by decide)) <|
    walks_runHeld_cons (hbyte 3 (by decide)) htail

theorem walks_rowStep (f : BitVec 2) (r : BitVec 5) : Walks 17 (rowStep f r) := by
  intro s t h hb ht hbt
  obtain ⟨-, ht⟩ := running_eq_next.1 ht
  obtain ⟨-, ht⟩ := require_eq_next.1 ht
  obtain ⟨-, ht⟩ := atSeq_eq_next.1 ht
  exact walks_stepParts s t h hb (whenIdle_eq_next.1 ht).2 hbt

/-- A scan is a hundred row steps. -/
theorem walks_frameScan : Walks 1700 frameScan := by
  have hsteps : Walks 1700 (runHeld ((List.range 100).map scanStep)) :=
    walks_runHeld_map (fun _ => walks_rowStep _ _) (List.range 100)
  intro s t h hb ht hbt
  obtain ⟨-, ht⟩ := running_eq_next.1 ht
  obtain ⟨-, ht⟩ := atSeq_eq_next.1 ht
  obtain ⟨-, ht⟩ := whenIdle_eq_next.1 ht
  exact hsteps s t h hb (frameScan_parts ▸ ht) hbt

/-! ## RUN (R201) -/

/-- What is written is no part of what a scan shows. -/
theorem fieldEvents_written (w : List Cmd) (f : BitVec 2) (n : Nat) (s : State) :
    fieldEvents { s with written := w } f n = fieldEvents s f n := by
  have hword (r : Nat) : State.rowWord { s with written := w } f r = s.rowWord f r := by
    unfold State.rowWord State.word
    cases planeOf f <;> rfl
  induction n with
  | zero => rfl
  | succ n ih => rw [fieldEvents, fieldEvents, hword, ih]

/-- A scan does the same whatever is written. -/
theorem scanned_written (w : List Cmd) (s : State) :
    State.scanned 3#2 24#5 400 (scanEvents { s with written := w }) { s with written := w }
      = { s.scanned 3#2 24#5 400 (scanEvents s) with written := w } := by
  simp only [scanEvents, fieldEvents_written]
  rfl

theorem Scanning.written {s : State} (h : Scanning s) (w : List Cmd) : Scanning { s with written := w } :=
  ⟨⟨h.seq.uop, h.seq.row, h.seq.atick⟩, { h.scan with }⟩

/-- Settles O36: the steps after RUN walk through the scan of the frame RUN began. -/
theorem runIsFrameAndGoesOn : Obligations.RunIsFrameAndGoesOn := by
  intro s hh hb hu hf hr hctr hball
  obtain ⟨t, ht, hkept, hready, hcounter, hballt⟩ := atickStep_readyAt hh hb hu hf hr hctr hball (completes_zero s)
  obtain ⟨-, -, -, -, -, -, -, -, -, hedges, hleft, -, hwritten, -⟩ := hkept
  have hatick : exec .atick s = .next { t with written := s.written } := ht.trans (by rw [← hwritten])
  refine ⟨{ t with written := [] }, congrArg (andThen · _) ht, hatick, rfl, hready.running, hready.idle, hready.uop,
    hready.field, hready.row, hcounter, hballt, fun he hl hc hd => ?_⟩
  have hscanning : Scanning t := (scanning_of_stateDefect hh hb hu hc hd).engine hu (engineOnly_atickStep ht)
    ⟨hready.uop, hready.row⟩
  have hfree : FreeRun { t with written := [] } :=
    ⟨rfl, hedges.trans he, hleft.trans hl, hballt, hcounter, hscanning.written []⟩
  have hcompletes : t.completes 400 = true := by simp [State.completes, hleft, hl]
  have hscan := frameScan_of { hready with completes := hcompletes }
  have hscan' : frameScan { t with written := [] } = .next { t.scanned 3#2 24#5 400 (scanEvents t) with written := [] } :=
    (frameScan_of (s := { t with written := [] })
      ⟨hready.running, hready.idle, hcompletes, hready.uop, hready.field, hready.row⟩).trans
        (congrArg _ (scanned_written [] t))
  obtain ⟨hsteps, hend⟩ := walks_frameScan _ _ hfree hready.idle hscan' hready.idle
  refine ⟨_, hsteps, ?_, rfl, hend.scanning.scan.running, hready.idle, rfl, rfl, rfl, hend.counter, hend.ball,
    hend.stateDefect⟩
  rw [← hwritten]
  exact (frameStep_eq s).trans ((congrArg (andThen · frameScan) ht).trans hscan)

end Sys2Proof.Machine
end
